-- ==== Sys2Proof/Word.lean ====
section
/-! DEFINITION. The machine word (00_scope.md R6, R7): 16 bits, bit 0 least significant. -/

namespace Sys2Proof

/-- "the 16-bit addressable unit of this machine; all memory, registers, and instruction fields are word-sized" (R11). -/
abbrev Word := BitVec 16

end Sys2Proof
end

