-- ==== Sys2Proof/Machine/Flags.lean ====
section
/-! DEFINITION. Values: `u16`, `s16` (00_scope.md R8) and, for each instruction that computes one, the result and
the EX value of 42_arithmetic.md, and the conditions of 43_conditionals.md. Each is exact arithmetic narrowed at the end. -/

namespace Sys2Proof.Machine
open Sys2Proof

/-- `u16(n) = n mod 65536` (R8). -/
def u16 (n : Int) : Word := BitVec.ofInt 16 n

/-- `s16(v)`: two's complement (R8). -/
def s16 (v : Word) : Int := if v.toNat < 0x8000 then (v.toNat : Int) else (v.toNat : Int) - 65536

/-- A value as an unsigned number. -/
def nat (v : Word) : Int := (v.toNat : Int)

/-- 1 on carry, else 0 (R162, R176). -/
def carryEx (t : Int) : Word := if 0x10000 ≤ t then 1 else 0

/-- ADD (R162). -/
def addValue (bv av : Word) : Word × Word := (u16 (nat bv + nat av), carryEx (nat bv + nat av))

/-- SUB: EX is 1 on borrow (R163). -/
def subValue (bv av : Word) : Word × Word := (u16 (nat bv - nat av), if nat bv - nat av < 0 then 1 else 0)

/-- MUL: EX is the product's high word (R164). -/
def mulValue (bv av : Word) : Word × Word := (u16 (nat bv * nat av), u16 (nat bv * nat av / 65536))

/-- MLI: the signed product; `/` by a positive number rounds toward minus infinity (R165). -/
def mliValue (bv av : Word) : Word × Word := (u16 (s16 bv * s16 av), u16 (s16 bv * s16 av / 65536))

/-- DIV: EX is the fraction word; a zero divisor gives 0 and 0 (R166). -/
def divValue (bv av : Word) : Word × Word :=
  if av = 0 then (0, 0) else (u16 (nat bv / nat av), u16 (nat bv * 65536 / nat av))

/-- DVI: rounds toward zero (R167). -/
def dviValue (bv av : Word) : Word × Word :=
  if av = 0 then (0, 0) else (u16 (Int.tdiv (s16 bv) (s16 av)), u16 (Int.tdiv (s16 bv * 65536) (s16 av)))

/-- MOD (R168). -/
def modValue (bv av : Word) : Word := if av = 0 then 0 else u16 (nat bv % nat av)

/-- MDI: the remainder with the dividend's sign (R169). -/
def mdiValue (bv av : Word) : Word :=
  if av = 0 then 0 else u16 (s16 bv - s16 av * Int.tdiv (s16 bv) (s16 av))

/-- `2^av`, the full 16-bit shift count, exact (R173, R174, R175). -/
def pow2 (av : Word) : Int := ((2 ^ av.toNat : Nat) : Int)

/-- SHR by the full 16-bit count (R173). -/
def shrValue (bv av : Word) : Word × Word := (u16 (nat bv / pow2 av), u16 (nat bv * 65536 / pow2 av))

/-- ASR: division by a power of two, toward minus infinity (R174). -/
def asrValue (bv av : Word) : Word × Word := (u16 (s16 bv / pow2 av), u16 (s16 bv * 65536 / pow2 av))

/-- SHL (R175). -/
def shlValue (bv av : Word) : Word × Word := (u16 (nat bv * pow2 av), u16 (nat bv * pow2 av / 65536))

/-- ADX: EX is the carry input, unsigned (R176). -/
def adxValue (bv av ex : Word) : Word × Word :=
  (u16 (nat bv + nat av + nat ex), carryEx (nat bv + nat av + nat ex))

/-- SBX (R177). -/
def sbxValue (bv av ex : Word) : Word × Word :=
  (u16 (nat bv - nat av + nat ex),
    if nat bv - nat av + nat ex < 0 then 0xFFFF else carryEx (nat bv - nat av + nat ex))

/-- IFB (R201). -/
def ifbCond (bv av : Word) : Bool := (bv &&& av) != 0

/-- IFC (R202). -/
def ifcCond (bv av : Word) : Bool := (bv &&& av) == 0

/-- IFE (R203). -/
def ifeCond (bv av : Word) : Bool := bv == av

/-- IFN (R204). -/
def ifnCond (bv av : Word) : Bool := bv != av

/-- IFG, unsigned (R205). -/
def ifgCond (bv av : Word) : Bool := decide (nat bv > nat av)

/-- IFA, signed (R206). -/
def ifaCond (bv av : Word) : Bool := decide (s16 bv > s16 av)

/-- IFL, unsigned (R207). -/
def iflCond (bv av : Word) : Bool := decide (nat bv < nat av)

/-- IFU, signed (R208). -/
def ifuCond (bv av : Word) : Bool := decide (s16 bv < s16 av)

end Sys2Proof.Machine
end

