-- ==== Sys2Proof/Syntax.lean ====
section
/-! DEFINITION. The instructions as syntax (30_encoding.md R80-R94): general registers, operand classes, and one
constructor for every row of the opcode table. An instruction's trailing words are not part of `Instr`: the operand class says
whether it takes one, and the core fetches it while it resolves the operand (40_operand_resolver.md R124; log 14). -/

namespace Sys2Proof

/-- The general registers, codes 0 to 7 in this order (R20). -/
inductive Reg where
  | a | b | c | x | y | z | i | j
deriving DecidableEq, Repr

/-- The field an operand code stands in (R83): b, the destination, or a, the source or special operand. -/
inductive Role where
  | b | a
deriving DecidableEq, Repr

/-- The operand classes of R83, in the order of their codes. -/
inductive Operand where
  /-- 0x00-0x07, direct register (R111) -/
  | reg (r : Reg)
  /-- 0x08-0x0F, [register] (R112) -/
  | regInd (r : Reg)
  /-- 0x10-0x17, [register + next word] (R113) -/
  | regOff (r : Reg)
  /-- 0x18 in role b, [--SP] (R114) -/
  | push
  /-- 0x18 in role a, [SP++] (R115) -/
  | pop
  /-- 0x19, [SP] (R116) -/
  | peek
  /-- 0x1A, [SP + next word] (R117) -/
  | pick
  /-- 0x1B, SP (R120) -/
  | sp
  /-- 0x1C, PC (R118) -/
  | pc
  /-- 0x1D, EX (R119) -/
  | ex
  /-- 0x1E, [next word] (R121) -/
  | nextInd
  /-- 0x1F, next word as a literal (R122) -/
  | nextLit
  /-- 0x20-0x3F in role a, a packed small immediate of this value (R123) -/
  | short (v : Word)
deriving DecidableEq, Repr

/-- One constructor per row of the opcode table: basic instructions (R88), then special ones (R89). -/
inductive Instr where
  /-- SET, o = 0x01 (R161) -/
  | set (b a : Operand)
  /-- ADD, o = 0x02 (R162) -/
  | add (b a : Operand)
  /-- SUB, o = 0x03 (R163) -/
  | sub (b a : Operand)
  /-- MUL, o = 0x04 (R164) -/
  | mul (b a : Operand)
  /-- MLI, o = 0x05 (R165) -/
  | mli (b a : Operand)
  /-- DIV, o = 0x06 (R166) -/
  | div (b a : Operand)
  /-- DVI, o = 0x07 (R167) -/
  | dvi (b a : Operand)
  /-- MOD, o = 0x08 (R168) -/
  | mod (b a : Operand)
  /-- MDI, o = 0x09 (R169) -/
  | mdi (b a : Operand)
  /-- AND, o = 0x0A (R170) -/
  | and (b a : Operand)
  /-- BOR, o = 0x0B (R171) -/
  | bor (b a : Operand)
  /-- XOR, o = 0x0C (R172) -/
  | xor (b a : Operand)
  /-- SHR, o = 0x0D (R173) -/
  | shr (b a : Operand)
  /-- ASR, o = 0x0E (R174) -/
  | asr (b a : Operand)
  /-- SHL, o = 0x0F (R175) -/
  | shl (b a : Operand)
  /-- IFB, o = 0x10 (R201) -/
  | ifb (b a : Operand)
  /-- IFC, o = 0x11 (R202) -/
  | ifc (b a : Operand)
  /-- IFE, o = 0x12 (R203) -/
  | ife (b a : Operand)
  /-- IFN, o = 0x13 (R204) -/
  | ifn (b a : Operand)
  /-- IFG, o = 0x14 (R205) -/
  | ifg (b a : Operand)
  /-- IFA, o = 0x15 (R206) -/
  | ifa (b a : Operand)
  /-- IFL, o = 0x16 (R207) -/
  | ifl (b a : Operand)
  /-- IFU, o = 0x17 (R208) -/
  | ifu (b a : Operand)
  /-- RESERVED_BASIC 0x18, o = 0x18 (R230) -/
  | reservedBasic18 (b a : Operand)
  /-- RESERVED_BASIC 0x19, o = 0x19 (R230) -/
  | reservedBasic19 (b a : Operand)
  /-- ADX, o = 0x1A (R176) -/
  | adx (b a : Operand)
  /-- SBX, o = 0x1B (R177) -/
  | sbx (b a : Operand)
  /-- RESERVED_BASIC 0x1C, o = 0x1C (R230) -/
  | reservedBasic1C (b a : Operand)
  /-- RESERVED_BASIC 0x1D, o = 0x1D (R230) -/
  | reservedBasic1D (b a : Operand)
  /-- STI, o = 0x1E (R179) -/
  | sti (b a : Operand)
  /-- STD, o = 0x1F (R180) -/
  | std (b a : Operand)
  /-- RESERVED_SPECIAL 0x00, s = 0x00 (R230) -/
  | reservedSpecial00 (a : Operand)
  /-- JSR, s = 0x01 (R220) -/
  | jsr (a : Operand)
  /-- RESERVED_SPECIAL 0x02, s = 0x02 (R230) -/
  | reservedSpecial02 (a : Operand)
  /-- RESERVED_SPECIAL 0x03, s = 0x03 (R230) -/
  | reservedSpecial03 (a : Operand)
  /-- RESERVED_SPECIAL 0x04, s = 0x04 (R230) -/
  | reservedSpecial04 (a : Operand)
  /-- RESERVED_SPECIAL 0x05, s = 0x05 (R230) -/
  | reservedSpecial05 (a : Operand)
  /-- RESERVED_SPECIAL 0x06, s = 0x06 (R230) -/
  | reservedSpecial06 (a : Operand)
  /-- HCF, s = 0x07 (R221) -/
  | hcf (a : Operand)
  /-- INT, s = 0x08 (R222) -/
  | int (a : Operand)
  /-- IAG, s = 0x09 (R223) -/
  | iag (a : Operand)
  /-- IAS, s = 0x0A (R224) -/
  | ias (a : Operand)
  /-- RFI, s = 0x0B (R225) -/
  | rfi (a : Operand)
  /-- IAQ, s = 0x0C (R226) -/
  | iaq (a : Operand)
  /-- RESERVED_SPECIAL 0x0D, s = 0x0D (R230) -/
  | reservedSpecial0D (a : Operand)
  /-- RESERVED_SPECIAL 0x0E, s = 0x0E (R230) -/
  | reservedSpecial0E (a : Operand)
  /-- RESERVED_SPECIAL 0x0F, s = 0x0F (R230) -/
  | reservedSpecial0F (a : Operand)
  /-- HWN, s = 0x10 (R227) -/
  | hwn (a : Operand)
  /-- HWQ, s = 0x11 (R228) -/
  | hwq (a : Operand)
  /-- HWI, s = 0x12 (R229) -/
  | hwi (a : Operand)
  /-- RESERVED_SPECIAL 0x13, s = 0x13 (R230) -/
  | reservedSpecial13 (a : Operand)
  /-- RESERVED_SPECIAL 0x14, s = 0x14 (R230) -/
  | reservedSpecial14 (a : Operand)
  /-- RESERVED_SPECIAL 0x15, s = 0x15 (R230) -/
  | reservedSpecial15 (a : Operand)
  /-- RESERVED_SPECIAL 0x16, s = 0x16 (R230) -/
  | reservedSpecial16 (a : Operand)
  /-- RESERVED_SPECIAL 0x17, s = 0x17 (R230) -/
  | reservedSpecial17 (a : Operand)
  /-- RESERVED_SPECIAL 0x18, s = 0x18 (R230) -/
  | reservedSpecial18 (a : Operand)
  /-- RESERVED_SPECIAL 0x19, s = 0x19 (R230) -/
  | reservedSpecial19 (a : Operand)
  /-- RESERVED_SPECIAL 0x1A, s = 0x1A (R230) -/
  | reservedSpecial1A (a : Operand)
  /-- RESERVED_SPECIAL 0x1B, s = 0x1B (R230) -/
  | reservedSpecial1B (a : Operand)
  /-- RESERVED_SPECIAL 0x1C, s = 0x1C (R230) -/
  | reservedSpecial1C (a : Operand)
  /-- RESERVED_SPECIAL 0x1D, s = 0x1D (R230) -/
  | reservedSpecial1D (a : Operand)
  /-- RESERVED_SPECIAL 0x1E, s = 0x1E (R230) -/
  | reservedSpecial1E (a : Operand)
  /-- RESERVED_SPECIAL 0x1F, s = 0x1F (R230) -/
  | reservedSpecial1F (a : Operand)
deriving DecidableEq, Repr

/-- The two formats (R81, R82), with the opcode field and the operands of each. -/
inductive Format where
  | basic (o : BitVec 5) (b a : Operand)
  | special (s : BitVec 5) (a : Operand)
deriving DecidableEq, Repr

/-- The opcode maps of R88 and R89, read from the instruction to its fields. -/
def Instr.format : Instr → Format
  | .set b a => .basic 0x01#5 b a
  | .add b a => .basic 0x02#5 b a
  | .sub b a => .basic 0x03#5 b a
  | .mul b a => .basic 0x04#5 b a
  | .mli b a => .basic 0x05#5 b a
  | .div b a => .basic 0x06#5 b a
  | .dvi b a => .basic 0x07#5 b a
  | .mod b a => .basic 0x08#5 b a
  | .mdi b a => .basic 0x09#5 b a
  | .and b a => .basic 0x0A#5 b a
  | .bor b a => .basic 0x0B#5 b a
  | .xor b a => .basic 0x0C#5 b a
  | .shr b a => .basic 0x0D#5 b a
  | .asr b a => .basic 0x0E#5 b a
  | .shl b a => .basic 0x0F#5 b a
  | .ifb b a => .basic 0x10#5 b a
  | .ifc b a => .basic 0x11#5 b a
  | .ife b a => .basic 0x12#5 b a
  | .ifn b a => .basic 0x13#5 b a
  | .ifg b a => .basic 0x14#5 b a
  | .ifa b a => .basic 0x15#5 b a
  | .ifl b a => .basic 0x16#5 b a
  | .ifu b a => .basic 0x17#5 b a
  | .reservedBasic18 b a => .basic 0x18#5 b a
  | .reservedBasic19 b a => .basic 0x19#5 b a
  | .adx b a => .basic 0x1A#5 b a
  | .sbx b a => .basic 0x1B#5 b a
  | .reservedBasic1C b a => .basic 0x1C#5 b a
  | .reservedBasic1D b a => .basic 0x1D#5 b a
  | .sti b a => .basic 0x1E#5 b a
  | .std b a => .basic 0x1F#5 b a
  | .reservedSpecial00 a => .special 0x00#5 a
  | .jsr a => .special 0x01#5 a
  | .reservedSpecial02 a => .special 0x02#5 a
  | .reservedSpecial03 a => .special 0x03#5 a
  | .reservedSpecial04 a => .special 0x04#5 a
  | .reservedSpecial05 a => .special 0x05#5 a
  | .reservedSpecial06 a => .special 0x06#5 a
  | .hcf a => .special 0x07#5 a
  | .int a => .special 0x08#5 a
  | .iag a => .special 0x09#5 a
  | .ias a => .special 0x0A#5 a
  | .rfi a => .special 0x0B#5 a
  | .iaq a => .special 0x0C#5 a
  | .reservedSpecial0D a => .special 0x0D#5 a
  | .reservedSpecial0E a => .special 0x0E#5 a
  | .reservedSpecial0F a => .special 0x0F#5 a
  | .hwn a => .special 0x10#5 a
  | .hwq a => .special 0x11#5 a
  | .hwi a => .special 0x12#5 a
  | .reservedSpecial13 a => .special 0x13#5 a
  | .reservedSpecial14 a => .special 0x14#5 a
  | .reservedSpecial15 a => .special 0x15#5 a
  | .reservedSpecial16 a => .special 0x16#5 a
  | .reservedSpecial17 a => .special 0x17#5 a
  | .reservedSpecial18 a => .special 0x18#5 a
  | .reservedSpecial19 a => .special 0x19#5 a
  | .reservedSpecial1A a => .special 0x1A#5 a
  | .reservedSpecial1B a => .special 0x1B#5 a
  | .reservedSpecial1C a => .special 0x1C#5 a
  | .reservedSpecial1D a => .special 0x1D#5 a
  | .reservedSpecial1E a => .special 0x1E#5 a
  | .reservedSpecial1F a => .special 0x1F#5 a

end Sys2Proof
end

