-- ==== Sys2Proof/WellFormed.lean ====
section
/-! DEFINITION. Which instructions the encoding can say: an operand class stands only in a field whose codes
have it (30_encoding.md R83), and a packed small immediate lies in the window -1 to 30 (R84). -/

namespace Sys2Proof

/-- -1 <= v <= 30 (R84): `v + 1` is at most 31. -/
def inShortWindow (v : Word) : Bool := decide ((v + 1).toNat ≤ 31)

/-- The classes that role's field has a code for: POP and packed immediates only in a, PUSH only in b (R83). -/
def Operand.okIn (role : Role) (o : Operand) : Bool :=
  match o with
  | .push => role == .b
  | .pop => role == .a
  | .short v => role == .a && inShortWindow v
  | .reg _ | .regInd _ | .regOff _ | .peek | .pick | .sp | .pc | .ex | .nextInd | .nextLit => true

/-- Both operands stand in a field that has a code for them. -/
def Instr.wellFormed (i : Instr) : Bool :=
  match i.format with
  | .basic _ b a => b.okIn .b && a.okIn .a
  | .special _ a => a.okIn .a

end Sys2Proof
end

