-- ==== Sys2Proof/Decode.lean ====
section
/-! DEFINITION. The instruction encoding (30_encoding.md): the decoder, total on every word (R94), the length of an
instruction (R87), the decoder of a word list with its trailing words, and the encoder. -/

namespace Sys2Proof

/-- Field o, bits 4:0 (R81). -/
def opField (w : Word) : BitVec 5 := w.extractLsb' 0 5

/-- Field b of a basic word and field s of a special word, bits 9:5 (R81, R82). -/
def bField (w : Word) : BitVec 5 := w.extractLsb' 5 5

/-- Field a, bits 15:10 (R81, R82). -/
def aField (w : Word) : BitVec 6 := w.extractLsb' 10 6

/-- Register codes 0 to 7 (R20). -/
def Reg.ofCode (c : BitVec 3) : Reg :=
  match c with
  | 0#3 => .a
  | 1#3 => .b
  | 2#3 => .c
  | 3#3 => .x
  | 4#3 => .y
  | 5#3 => .z
  | 6#3 => .i
  | 7#3 => .j

/-- Codes 0x00 to 0x1F, which both fields share but for 0x18 (R83). -/
def decodeLow (role : Role) (c : BitVec 5) : Operand :=
  let low : BitVec 3 := c.extractLsb' 0 3
  match c.extractLsb' 3 2 with
  | 0#2 => .reg (Reg.ofCode low)
  | 1#2 => .regInd (Reg.ofCode low)
  | 2#2 => .regOff (Reg.ofCode low)
  | 3#2 =>
    match low with
    | 0#3 => match role with
      | .b => .push
      | .a => .pop
    | 1#3 => .peek
    | 2#3 => .pick
    | 3#3 => .sp
    | 4#3 => .pc
    | 5#3 => .ex
    | 6#3 => .nextInd
    | 7#3 => .nextLit

/-- Field b's 32 codes (R83). -/
def decodeB (c : BitVec 5) : Operand := decodeLow .b c

/-- Field a's 64 codes: from 0x20 on, the packed immediate `u16(code - 0x21)` (R83, R84). -/
def decodeA (c : BitVec 6) : Operand :=
  if 0x20#6 ≤ c then .short (c.zeroExtend 16 - 0x21#16) else decodeLow .a (c.extractLsb' 0 5)

/-- The basic opcode map (R88). Field value 0x00 selects the special format, so it has no row. -/
def basicInstr (o : BitVec 5) (b a : Operand) : Option Instr :=
  match o with
  | 0x00#5 => none
  | 0x01#5 => some (.set b a)
  | 0x02#5 => some (.add b a)
  | 0x03#5 => some (.sub b a)
  | 0x04#5 => some (.mul b a)
  | 0x05#5 => some (.mli b a)
  | 0x06#5 => some (.div b a)
  | 0x07#5 => some (.dvi b a)
  | 0x08#5 => some (.mod b a)
  | 0x09#5 => some (.mdi b a)
  | 0x0A#5 => some (.and b a)
  | 0x0B#5 => some (.bor b a)
  | 0x0C#5 => some (.xor b a)
  | 0x0D#5 => some (.shr b a)
  | 0x0E#5 => some (.asr b a)
  | 0x0F#5 => some (.shl b a)
  | 0x10#5 => some (.ifb b a)
  | 0x11#5 => some (.ifc b a)
  | 0x12#5 => some (.ife b a)
  | 0x13#5 => some (.ifn b a)
  | 0x14#5 => some (.ifg b a)
  | 0x15#5 => some (.ifa b a)
  | 0x16#5 => some (.ifl b a)
  | 0x17#5 => some (.ifu b a)
  | 0x18#5 => some (.reservedBasic18 b a)
  | 0x19#5 => some (.reservedBasic19 b a)
  | 0x1A#5 => some (.adx b a)
  | 0x1B#5 => some (.sbx b a)
  | 0x1C#5 => some (.reservedBasic1C b a)
  | 0x1D#5 => some (.reservedBasic1D b a)
  | 0x1E#5 => some (.sti b a)
  | _ => some (.std b a) -- 0x1F, the one value left

/-- The special opcode map (R89), reserved and refused rows included (R90, R91). -/
def specialInstr (s : BitVec 5) (a : Operand) : Instr :=
  match s with
  | 0x00#5 => .reservedSpecial00 a
  | 0x01#5 => .jsr a
  | 0x02#5 => .reservedSpecial02 a
  | 0x03#5 => .reservedSpecial03 a
  | 0x04#5 => .reservedSpecial04 a
  | 0x05#5 => .reservedSpecial05 a
  | 0x06#5 => .reservedSpecial06 a
  | 0x07#5 => .hcf a
  | 0x08#5 => .int a
  | 0x09#5 => .iag a
  | 0x0A#5 => .ias a
  | 0x0B#5 => .rfi a
  | 0x0C#5 => .iaq a
  | 0x0D#5 => .reservedSpecial0D a
  | 0x0E#5 => .reservedSpecial0E a
  | 0x0F#5 => .reservedSpecial0F a
  | 0x10#5 => .hwn a
  | 0x11#5 => .hwq a
  | 0x12#5 => .hwi a
  | 0x13#5 => .reservedSpecial13 a
  | 0x14#5 => .reservedSpecial14 a
  | 0x15#5 => .reservedSpecial15 a
  | 0x16#5 => .reservedSpecial16 a
  | 0x17#5 => .reservedSpecial17 a
  | 0x18#5 => .reservedSpecial18 a
  | 0x19#5 => .reservedSpecial19 a
  | 0x1A#5 => .reservedSpecial1A a
  | 0x1B#5 => .reservedSpecial1B a
  | 0x1C#5 => .reservedSpecial1C a
  | 0x1D#5 => .reservedSpecial1D a
  | 0x1E#5 => .reservedSpecial1E a
  | _ => .reservedSpecial1F a -- 0x1F, the one value left

/-- Every word decodes to exactly one instruction (R94): special when o = 0, else basic (R142). -/
def decode (w : Word) : Instr :=
  match basicInstr (opField w) (decodeB (bField w)) (decodeA (aField w)) with
  | some i => i
  | none => specialInstr (bField w) (decodeA (aField w))

/-- `needs_word(c)` of R85. -/
def needsWord (c : BitVec 6) : Bool :=
  decide (0x10#6 ≤ c ∧ c ≤ 0x17#6) || c == 0x1A#6 || c == 0x1E#6 || c == 0x1F#6

/-- `length(w)` of R87, in words. -/
def wordLength (w : Word) : Nat :=
  if opField w = 0 then 1 + (needsWord (aField w)).toNat
  else 1 + (needsWord ((bField w).zeroExtend 6)).toNat + (needsWord (aField w)).toNat

/-- The classes marked "tw" in R83. -/
def Operand.takesWord : Operand → Bool
  | .regOff _ | .pick | .nextInd | .nextLit => true
  | .reg _ | .regInd _ | .push | .pop | .peek | .sp | .pc | .ex | .short _ => false

/-- How many trailing words an instruction takes: 0, 1 or 2 (R80). -/
def Instr.trailing (i : Instr) : Nat :=
  match i.format with
  | .basic _ b a => b.takesWord.toNat + a.takesWord.toNat
  | .special _ a => a.takesWord.toNat

/-- "1 + number of trailing words" (R80). -/
def Instr.length (i : Instr) : Nat := 1 + i.trailing

/-- What a list of words holds first: one instruction with its trailing words, b's before a's (R80, R86), or the reason
why it holds none. -/
inductive Decoded where
  | instr (i : Instr) (trailing rest : List Word)
  /-- the list is empty -/
  | noOpcodeWord
  /-- the opcode word's length asks for more words than there are -/
  | missingTrailingWord (i : Instr)
deriving DecidableEq, Repr

/-- The first instruction of a list of words (R80, R86, R87, R94). -/
def decodeWords : List Word → Decoded
  | [] => .noOpcodeWord
  | w :: ws =>
    if ws.length < (decode w).trailing then .missingTrailingWord (decode w)
    else .instr (decode w) (ws.take (decode w).trailing) (ws.drop (decode w).trailing)

/-- The host's numbering of a row's bits: the first word is bits 15:0, and the operand words above it are zero.
The decoder needs the opcode word alone (R87, R93). -/
def decodeTableWord (nbits w : Nat) : Option Instr :=
  match decodeWords (BitVec.ofNat 16 (w % 2 ^ nbits) :: [0, 0]) with
  | .instr i _ _ => some i
  | .noOpcodeWord => none
  | .missingTrailingWord _ => none

/-! The encoder. -/

/-- Register codes 0 to 7 (R20). -/
def Reg.code : Reg → BitVec 3
  | .a => 0
  | .b => 1
  | .c => 2
  | .x => 3
  | .y => 4
  | .z => 5
  | .i => 6
  | .j => 7

/-- The 5-bit code of an operand class (R83). A packed immediate has none; its 0x1F is never used for a
well-formed instruction. -/
def Operand.code5 : Operand → BitVec 5
  | .reg r => 0#2 ++ r.code
  | .regInd r => 1#2 ++ r.code
  | .regOff r => 2#2 ++ r.code
  | .push => 0x18
  | .pop => 0x18
  | .peek => 0x19
  | .pick => 0x1A
  | .sp => 0x1B
  | .pc => 0x1C
  | .ex => 0x1D
  | .nextInd => 0x1E
  | .nextLit => 0x1F
  | .short _ => 0x1F

/-- The 6-bit code in field a (R83); a packed immediate's is its value + 0x21 (R84). -/
def Operand.code6 : Operand → BitVec 6
  | .short v => (v + 0x21#16).extractLsb' 0 6
  | .reg r => (Operand.reg r).code5.zeroExtend 6
  | .regInd r => (Operand.regInd r).code5.zeroExtend 6
  | .regOff r => (Operand.regOff r).code5.zeroExtend 6
  | .push => 0x18
  | .pop => 0x18
  | .peek => 0x19
  | .pick => 0x1A
  | .sp => 0x1B
  | .pc => 0x1C
  | .ex => 0x1D
  | .nextInd => 0x1E
  | .nextLit => 0x1F

/-- `(a << 10) | (b << 5) | o` for basic and `(a << 10) | (s << 5)` for special (R95). -/
def encode (i : Instr) : Word :=
  match i.format with
  | .basic o b a => a.code6 ++ b.code5 ++ o
  | .special s a => a.code6 ++ s ++ 0#5

/-- An instruction's words: the opcode word, then its trailing words (R80). -/
def encodeWords (i : Instr) (trailing : List Word) : List Word := encode i :: trailing

/-- The form of a constant in role a: packed in the window, else a trailing word (R97). -/
def Operand.ofConstA (v : Word) : Operand × List Word :=
  if inShortWindow v then (.short v, []) else (.nextLit, [v])

/-- The form of a constant in role b: always a trailing word (R97). -/
def Operand.ofConstB (v : Word) : Operand × List Word := (.nextLit, [v])

end Sys2Proof
end

