-- ==== Sys2Proof/Config.lean ====
section
/-! DEFINITION. What is fixed for the machine (00_scope.md R6) and the free values it leaves open:
the device interface (60_exceptions.md R282) and the one free value, a device's answer to a call. -/

namespace Sys2Proof

/-- The name of a device. Devices are told apart, nothing more (20_memory.md R60). -/
abbrev DeviceId := Nat

/-- RAM as plain data: (address, word) cells (log 1). The canonical form is `Machine.Memory.wf`. -/
abbrev Memory := List (Nat × Word)

/-- A call the core makes to a device (R282, R314). -/
inductive DeviceCall where
  /-- `onRead(lineOffset) -> word` -/
  | onRead (device : DeviceId) (offset : BitVec 12)
  /-- `onWrite(lineOffset, newValue, oldValue)` -/
  | onWrite (device : DeviceId) (offset : BitVec 12) (newValue oldValue : Word)
  /-- `onTick(opcodeWord)` -/
  | onTick (device : DeviceId) (opcodeWord : Word)
deriving DecidableEq, Repr

/-- A service a device may use from inside a callback (R282). `RawRead` changes nothing: what the device
reads, it reads from the RAM that its answer is drawn from. -/
inductive DeviceRequest where
  | post (message : Word)
  | requestHalt
  | addCycles (n : Nat)
  | rawWrite (address value : Word)
deriving DecidableEq, Repr

/-- What a device does in one callback: the services it asks for, in order, and, for `onRead`, the word
it returns. -/
structure DeviceReply where
  value : Word
  requests : List DeviceRequest
deriving DecidableEq, Repr, Inhabited

namespace Config

/-- FREE VALUE (log 4): what a device does in a call, drawn from the call, all calls made before it, the RAM
a device may scan with `RawRead`, and CYC, which a timer device reads (R280). Nothing constrains it (R58). -/
opaque deviceReply (call : DeviceCall) (history : List DeviceCall) (ram : Memory) (cyc : Nat) : DeviceReply

/-- INT_QUEUE_CAP's default (R6, D18). The machine's own value is the field `intQueueCap` of its state. -/
def intQueueCapDefault : Nat := 256

/-- What a RAM word holds that nothing has written: reset zeroes all RAM (10_state.md R40). -/
def ramDefault : Word := 0

/-- The number of words of RAM (R33); also the most an image may hold (R303). -/
def ramWords : Nat := 65536

/-- The constant block: -1 and 0 to 30 (R34, R84). -/
def constantBlock : List Word := (List.range 32).map fun n => BitVec.ofNat 16 n - 1

end Config
end Sys2Proof
end

