-- ==== Sys2Proof/Machine/State.lean ====
section
/-! DEFINITION. The machine's state as plain data (10_state.md), the reasons a step can stop, and the state
after reset (R40). -/

namespace Sys2Proof.Machine
open Sys2Proof

/-- The eight general registers (R20). -/
structure Regs where
  a : Word
  b : Word
  c : Word
  x : Word
  y : Word
  z : Word
  i : Word
  j : Word
deriving DecidableEq, Repr

/-- The reasons of the FAULT mark: QueueOverflow is the only one (R276). -/
inductive FaultReason where
  | queueOverflow
deriving DecidableEq, Repr

/-- The reasons of the REFUSED mark (R277). -/
inductive RefuseReason where
  | hwn
  | hwq
  | hwi
deriving DecidableEq, Repr

/-- Everything the spec gives the machine (R20-R36), and the model's own log of device calls. -/
structure State where
  /-- A, B, C, X, Y, Z, I, J (R20) -/
  regs : Regs
  /-- PC, the address of the next word to fetch (R21) -/
  pc : Word
  /-- SP (R22) -/
  sp : Word
  /-- EX, the overflow/carry register (R23) -/
  ex : Word
  /-- PC0, PC as of instruction start (R24) -/
  pc0 : Word
  /-- SP0, SP as of instruction start (R24) -/
  sp0 : Word
  /-- SKIP, the skip-condition latch (R25) -/
  skip : Bool
  /-- IA, the interrupt handler address; 0 disables (R26) -/
  ia : Word
  /-- SUSP, delivery suspended (R27) -/
  susp : Bool
  /-- INTQ, pending messages, head first (R28) -/
  intq : List Word
  /-- INT_QUEUE_CAP, the parameter (R6, R28; log 6); no step changes it -/
  intQueueCap : Nat
  /-- HALT (R29) -/
  halt : Bool
  /-- RESERVED_EXEC (R30) -/
  reservedExec : Bool
  /-- the FAULT mark (R31, R276; log 2) -/
  fault : Option FaultReason
  /-- the REFUSED mark (R31, R277; log 2) -/
  refused : Option RefuseReason
  /-- CYC, unbounded (R32) -/
  cyc : Nat
  /-- RAM (R33), canonical cells; an unlisted address reads as 0x0000 (log 1) -/
  ram : Memory
  /-- LINE[0..15] (R36, R54) -/
  lines : Vector (Option DeviceId) 16
  /-- DEVS, in attachment order (R36, R60) -/
  devs : List DeviceId
  /-- the MODEL's own field: the device calls made so far, oldest first, from which each answer of a device, a free
  value, is drawn (log 4, log 5) -/
  calls : List DeviceCall
deriving DecidableEq, Repr

/-- Why `step` takes no step: the core is stopped (R140). No meaning of an instruction answers a fault. -/
inductive Fault where
  /-- Raised by `step` in a state whose FAULT mark is set (R31, R140, R276). Safe: the spec has no later step. -/
  | raised (r : FaultReason)
  /-- Raised by `step` in a state with HALT = 1 (R29, R140). Safe: the spec has no later step (log 3). -/
  | halted
deriving DecidableEq, Repr

/-- Why the model gives no meaning. -/
inductive Refusal where
  /-- Raised by an arm of `exec` whose instruction has no meaning yet; no arm does now. Safe. -/
  | notModelled (mnemonic : String)
  /-- Raised by `step` in a state whose REFUSED mark is set: the last instruction executed was HWN, HWQ or HWI
  (R140, R227-R229, R277). Safe: the spec has no later step. -/
  | unmodelledInstruction (r : RefuseReason)
deriving DecidableEq, Repr

/-- The outcome of a step of this machine. -/
abbrev Outcome := Host.Outcome State Fault Refusal

/-- All registers zero (R40). -/
def Regs.zero : Regs := ⟨0, 0, 0, 0, 0, 0, 0, 0⟩

/-- After reset (R40, R300), with the queue capacity at its default (R6; log 6) and no device attached yet, since reset
itself leaves LINE and DEVS as they are (log 7). -/
def State.reset : State where
  regs := Regs.zero
  pc := 0
  sp := 0
  ex := 0
  pc0 := 0
  sp0 := 0
  skip := false
  ia := 0
  susp := false
  intq := []
  intQueueCap := Config.intQueueCapDefault
  halt := false
  reservedExec := false
  fault := none
  refused := none
  cyc := 0
  ram := []
  lines := Vector.replicate 16 none
  devs := []
  calls := []

end Sys2Proof.Machine
end

