-- ==== Sys2Proof/Machine/Ops.lean ====
section
/-! DEFINITION. The named operations over registers, memory and devices: RAM and the line multiplexer
(20_memory.md), device calls and their services, the interrupt gate, queue, entry and return (60_exceptions.md), and the end of an
executed instruction (41_execution_cycle.md R147, R148). -/

namespace Sys2Proof.Machine
open Sys2Proof

/-! ## Updates, one per piece of state -/

/-- `x[i]` (R9). -/
def Regs.get (g : Regs) : Reg → Word
  | .a => g.a
  | .b => g.b
  | .c => g.c
  | .x => g.x
  | .y => g.y
  | .z => g.z
  | .i => g.i
  | .j => g.j

/-- `x[i] <- v` (R9). -/
def Regs.set (g : Regs) (r : Reg) (v : Word) : Regs :=
  match r with
  | .a => { g with a := v }
  | .b => { g with b := v }
  | .c => { g with c := v }
  | .x => { g with x := v }
  | .y => { g with y := v }
  | .z => { g with z := v }
  | .i => { g with i := v }
  | .j => { g with j := v }

def State.reg (s : State) (r : Reg) : Word := s.regs.get r
def State.setReg (s : State) (r : Reg) (v : Word) : State := { s with regs := s.regs.set r v }
def State.setPc (s : State) (v : Word) : State := { s with pc := v }
def State.setSp (s : State) (v : Word) : State := { s with sp := v }
def State.setEx (s : State) (v : Word) : State := { s with ex := v }
def State.setSkip (s : State) (v : Bool) : State := { s with skip := v }
def State.setIa (s : State) (v : Word) : State := { s with ia := v }
def State.setSusp (s : State) (v : Bool) : State := { s with susp := v }
def State.setIntq (s : State) (q : List Word) : State := { s with intq := q }
def State.setHalt (s : State) (v : Bool) : State := { s with halt := v }
def State.setReservedExec (s : State) (v : Bool) : State := { s with reservedExec := v }
def State.setFault (s : State) (r : FaultReason) : State := { s with fault := some r }
def State.setRefused (s : State) (r : RefuseReason) : State := { s with refused := some r }
def State.addCyc (s : State) (n : Nat) : State := { s with cyc := s.cyc + n }
def State.setRam (s : State) (m : Memory) : State := { s with ram := m }
def State.logCall (s : State) (c : DeviceCall) : State := { s with calls := s.calls ++ [c] }

/-- `PC0 <- PC; SP0 <- SP` (R141). -/
def State.captureShadows (s : State) : State := { s with pc0 := s.pc, sp0 := s.sp }

/-- HALT = 1, FAULT set or REFUSED set (R140, R311). -/
def State.stopped (s : State) : Bool := s.halt || s.fault.isSome || s.refused.isSome

/-- A fault or a refusal was raised, in this step or before (R147, R148). -/
def State.marked (s : State) : Bool := s.fault.isSome || s.refused.isSome

/-! ## A computation that `raise Fault` can cut short -/

/-- What an operation gives: a value and the state after it, or the state at the point where a fault was raised, the
rest of the step not performed (R276). -/
inductive Res (α : Type) where
  | ok (v : α) (s : State)
  | raised (s : State)
deriving DecidableEq, Repr

/-- Go on from where an operation left off, unless it raised (R276). -/
def Res.bind {α β : Type} (r : Res α) (k : α → State → Res β) : Res β :=
  match r with
  | .ok v s => k v s
  | .raised s => .raised s

/-- The state an operation leaves. -/
def Res.state {α : Type} : Res α → State
  | .ok _ s => s
  | .raised s => s

/-- The outcome of a meaning: effects made before a fault was raised remain, with the mark (R276; log 2). -/
def Res.outcome (r : Res Unit) : Outcome := .next r.state

/-- `raise Fault(reason)` (R276). -/
def raiseFault {α : Type} (r : FaultReason) (s : State) : Res α := .raised (s.setFault r)

/-! ## RAM as canonical cells (R33; log 1) -/

/-- Addresses strictly rising from at least `lo`, all within RAM, and no cell equal to what an unlisted one reads as. -/
def Memory.wfFrom (lo : Nat) : Memory → Bool
  | [] => true
  | (k, v) :: m => decide (lo ≤ k ∧ k < Config.ramWords) && v != Config.ramDefault && Memory.wfFrom (k + 1) m

/-- The canonical form. -/
def Memory.wf (m : Memory) : Bool := Memory.wfFrom 0 m

/-- The word at an address. -/
def Memory.read : Memory → Nat → Word
  | [], _ => Config.ramDefault
  | (k, v) :: m, a => if k = a then v else Memory.read m a

/-- A cell in front of a list, unless it holds what an unlisted one reads as. -/
def Memory.cons (a : Nat) (v : Word) (m : Memory) : Memory := if v = Config.ramDefault then m else (a, v) :: m

/-- The word at an address replaced. -/
def Memory.write : Memory → Nat → Word → Memory
  | [], a, v => Memory.cons a v []
  | (k, w) :: m, a, v =>
    if a < k then Memory.cons a v ((k, w) :: m)
    else if a = k then Memory.cons a v m
    else (k, w) :: Memory.write m a v

/-- `RawRead(addr)` (R9). -/
def State.rawRead (s : State) (a : Word) : Word := Memory.read s.ram a.toNat

/-- `RawWrite(addr, v)` (R9). -/
def State.rawWrite (s : State) (a v : Word) : State := s.setRam (Memory.write s.ram a.toNat v)

/-! ## The interrupt gate and queue (R263, R264) -/

/-- `Enqueue(m)` (R264). -/
def enqueue (m : Word) (s : State) : Res Unit :=
  if s.intq.length < s.intQueueCap then .ok () (s.setIntq (s.intq ++ [m]))
  else raiseFault .queueOverflow s

/-- `Post(m)`: dropped when IA = 0 (R263). -/
def post (m : Word) (s : State) : Res Unit := if s.ia = 0 then .ok () s else enqueue m s

/-! ## Device calls (R282, R314) -/

/-- One service asked for from inside a callback (R274, R282, R284, R285). -/
def serveRequest (q : DeviceRequest) (s : State) : Res Unit :=
  match q with
  | .post m => post m s
  | .requestHalt => .ok () (s.setHalt true)
  | .addCycles n => .ok () (s.addCyc n)
  | .rawWrite a v => .ok () (s.rawWrite a v)

/-- The services of one callback, in the order the device asks for them (R273); a fault ends them (R276). -/
def serveRequests : List DeviceRequest → State → Res Unit
  | [], s => .ok () s
  | q :: qs, s => (serveRequest q s).bind fun _ s => serveRequests qs s

/-- One call to a device: what it does and returns is the free value (log 4). -/
def callDevice (c : DeviceCall) (s : State) : Res Word :=
  (serveRequests (Config.deviceReply c s.calls s.ram s.cyc).requests (s.logCall c)).bind fun _ t =>
    .ok (Config.deviceReply c s.calls s.ram s.cyc).value t

/-! ## The line multiplexer (R54-R56) -/

/-- `line(addr) = addr[15:12]` (R54). -/
def lineOf (a : Word) : BitVec 4 := a.extractLsb' 12 4

/-- `offset(addr) = addr[11:0]` (R54). -/
def offsetOf (a : Word) : BitVec 12 := a.extractLsb' 0 12

/-- `LINE[addr[15:12]]`. -/
def State.claimant (s : State) (a : Word) : Option DeviceId := s.lines[(lineOf a).toFin]

/-- `MemRead(addr, 1)` (R55). -/
def memRead (a : Word) (s : State) : Res Word :=
  match s.claimant a with
  | some d => callDevice (.onRead d (offsetOf a)) s
  | none => .ok (s.rawRead a) s

/-- `MemWrite(addr, 1, v)` (R56). -/
def memWrite (a v : Word) (s : State) : Res Unit :=
  match s.claimant a with
  | some d => (callDevice (.onWrite d (offsetOf a) v (s.rawRead a)) s).bind fun _ s => .ok () s
  | none => .ok () (s.rawWrite a v)

/-- `Fetch()` (R124). -/
def fetch (s : State) : Res Word := (memRead s.pc s).bind fun w s => .ok w (s.setPc (s.pc + 1))

/-- Decrement SP, then store at the new SP: the pushes of JSR and dispatch (R220, R268). -/
def pushWord (v : Word) (s : State) : Res Unit := memWrite (s.sp - 1) v (s.setSp (s.sp - 1))

/-- Read at SP, then increment SP: the pops of RFI (R225). -/
def popWord (s : State) : Res Word := (memRead s.sp s).bind fun w s => .ok w (s.setSp (s.sp + 1))

/-! ## Interrupt entry and return -/

/-- `DeliveryEnabled()` (R266). -/
def State.deliveryEnabled (s : State) : Bool := s.ia != 0 && !s.susp

/-- `DispatchEligible()` (R267). -/
def State.dispatchEligible (s : State) : Bool := !s.intq.isEmpty && s.deliveryEnabled

/-- What interrupt entry does with one message: PC and then A are pushed, A holds the message, PC the handler, and
delivery is suspended (R268). -/
def enterHandler (m : Word) (s : State) : Res Unit :=
  (pushWord s.pc s).bind fun _ s =>
  (pushWord (s.reg .a) s).bind fun _ s =>
  .ok () (((s.setReg .a m).setPc s.ia).setSusp true)

/-- `Dispatch()` (R268): the head of INTQ is removed and its handler entered. -/
def dispatch (s : State) : Res Unit :=
  match s.intq with
  | [] => .ok () s
  | m :: rest => enterHandler m (s.setIntq rest)

/-- RFI's protocol: A and then PC are popped, delivery is enabled again (R225, R270). -/
def returnFromInterrupt (s : State) : Res Unit :=
  (popWord s).bind fun v s =>
  (popWord (s.setReg .a v)).bind fun v s =>
  .ok () ((s.setPc v).setSusp false)

/-! ## The end of an executed instruction (R147, R148) -/

/-- `d.onTick(w)` for each device of a list, in order (R148, R283). -/
def tickAll (w : Word) : List DeviceId → State → Res Unit
  | [], s => .ok () s
  | d :: ds, s => (callDevice (.onTick d w) s).bind fun _ s => tickAll w ds s

/-- `CYC <- CYC + 1`, then every device of DEVS is ticked with the opcode word (R147, R148). -/
def retire (w : Word) (s : State) : Res Unit := tickAll w s.devs (s.addCyc 1)

/-! ## Placing an instruction -/

/-- An instruction's bits stored from address `a` on: the opcode word, then two operand words, all the row's bits do not
reach being zero. -/
def placeInstr (nbits w : Nat) (a : Word) (s : State) : State :=
  ((s.rawWrite a (BitVec.ofNat 16 (w % 2 ^ nbits))).rawWrite (a + 1) 0).rawWrite (a + 2) 0

end Sys2Proof.Machine
end

