-- ==== Sys2Proof/Machine/Operands.lean ====
section
/-! DEFINITION. The address-mode operand resolver (40_operand_resolver.md): locations, `Resolve`, `Read`, `Write`,
and the operand frame of basic and special instructions. -/

namespace Sys2Proof.Machine
open Sys2Proof

/-- `Loc` (R110). -/
inductive Loc where
  | reg (r : Reg)
  | pc
  | sp
  | ex
  /-- a word address, reached through the line multiplexer -/
  | mem (a : Word)
  /-- a constant, read-only (R34) -/
  | lit (v : Word)
deriving DecidableEq, Repr

/-- `Resolve(c, role)`, one case per class (R111-R123); the class carries its role (R83). Sums wrap (R113, R117). -/
def resolve (o : Operand) (s : State) : Res Loc :=
  match o with
  | .reg r => .ok (.reg r) s
  | .regInd r => .ok (.mem (s.reg r)) s
  | .regOff r => (fetch s).bind fun w s => .ok (.mem (s.reg r + w)) s
  | .push => .ok (.mem (s.sp - 1)) (s.setSp (s.sp - 1))
  | .pop => .ok (.mem s.sp) (s.setSp (s.sp + 1))
  | .peek => .ok (.mem s.sp) s
  | .pick => (fetch s).bind fun w s => .ok (.mem (s.sp + w)) s
  | .sp => .ok .sp s
  | .pc => .ok .pc s
  | .ex => .ok .ex s
  | .nextInd => (fetch s).bind fun w s => .ok (.mem w) s
  | .nextLit => (fetch s).bind fun w s => .ok (.lit w) s
  | .short v => .ok (.lit v) s

/-- `Read(loc)`: PC and SP read as of instruction start (R125). -/
def readLoc (l : Loc) (s : State) : Res Word :=
  match l with
  | .reg r => .ok (s.reg r) s
  | .pc => .ok s.pc0 s
  | .sp => .ok s.sp0 s
  | .ex => .ok s.ex s
  | .mem a => memRead a s
  | .lit v => .ok v s

/-- `Write(loc, v)`: PC and SP writes land on the live registers, a literal's is discarded (R126). -/
def writeLoc (l : Loc) (v : Word) (s : State) : Res Unit :=
  match l with
  | .reg r => .ok () (s.setReg r v)
  | .pc => .ok () (s.setPc v)
  | .sp => .ok () (s.setSp v)
  | .ex => .ok () (s.setEx v)
  | .mem a => memWrite a v s
  | .lit _ => .ok () s

/-- A basic instruction's operands: b resolved, then a, then b read, then a (R127, R145). The effect gets b's location and
both values. -/
def withBasic (b a : Operand) (s : State) (effect : Loc → Word → Word → State → Res Unit) : Res Unit :=
  (resolve b s).bind fun bl s =>
  (resolve a s).bind fun al s =>
  (readLoc bl s).bind fun bv s =>
  (readLoc al s).bind fun av s =>
  effect bl bv av s

/-- A special instruction's operand: resolved, then read (R127, R145, R219). The effect gets its location and value. -/
def withSpecial (a : Operand) (s : State) (effect : Loc → Word → State → Res Unit) : Res Unit :=
  (resolve a s).bind fun al s =>
  (readLoc al s).bind fun av s =>
  effect al av s

/-- A basic instruction that writes a result to b and leaves EX (R146, R160). -/
def produce (b a : Operand) (s : State) (f : Word → Word → Word) : Outcome :=
  (withBasic b a s fun bl bv av s => writeLoc bl (f bv av) s).outcome

/-- A basic instruction that writes a result to b and then EX (R146, R178). The computation gets bv, av and EX as it is then
(R176), and gives the result and the new EX. -/
def produceEx (b a : Operand) (s : State) (f : Word → Word → Word → Word × Word) : Outcome :=
  (withBasic b a s fun bl bv av s =>
    (writeLoc bl (f bv av s.ex).1 s).bind fun _ t => .ok () (t.setEx (f bv av s.ex).2)).outcome

/-- A conditional: SKIP is set when the condition is false, nothing is written (R200). -/
def conditional (b a : Operand) (s : State) (cond : Word → Word → Bool) : Outcome :=
  (withBasic b a s fun _ bv av s => .ok () (if cond bv av then s else s.setSkip true)).outcome

end Sys2Proof.Machine
end

