-- ==== Sys2Proof/Machine/Arith.lean ====
section
/-! DEFINITION. SET, STI, STD and the arithmetic instructions (42_arithmetic.md). -/

namespace Sys2Proof.Machine
open Sys2Proof

/-- SET b, a (R161). -/
def execSet (b a : Operand) (s : State) : Outcome := produce b a s fun _ av => av

/-- ADD b, a (R162). -/
def execAdd (b a : Operand) (s : State) : Outcome := produceEx b a s fun bv av _ => addValue bv av

/-- SUB b, a (R163). -/
def execSub (b a : Operand) (s : State) : Outcome := produceEx b a s fun bv av _ => subValue bv av

/-- MUL b, a (R164). -/
def execMul (b a : Operand) (s : State) : Outcome := produceEx b a s fun bv av _ => mulValue bv av

/-- MLI b, a (R165). -/
def execMli (b a : Operand) (s : State) : Outcome := produceEx b a s fun bv av _ => mliValue bv av

/-- DIV b, a (R166). -/
def execDiv (b a : Operand) (s : State) : Outcome := produceEx b a s fun bv av _ => divValue bv av

/-- DVI b, a (R167). -/
def execDvi (b a : Operand) (s : State) : Outcome := produceEx b a s fun bv av _ => dviValue bv av

/-- MOD b, a (R168). -/
def execMod (b a : Operand) (s : State) : Outcome := produce b a s modValue

/-- MDI b, a (R169). -/
def execMdi (b a : Operand) (s : State) : Outcome := produce b a s mdiValue

/-- ADX b, a (R176). -/
def execAdx (b a : Operand) (s : State) : Outcome := produceEx b a s adxValue

/-- SBX b, a (R177). -/
def execSbx (b a : Operand) (s : State) : Outcome := produceEx b a s sbxValue

/-- I and J both changed by the same amount, after the write (R179, R180). -/
def bumpIJ (d : Word) (s : State) : State := (s.setReg .i (s.reg .i + d)).setReg .j (s.reg .j + d)

/-- SET, and then I and J changed by `d` (R179, R180). -/
def setAndBump (b a : Operand) (s : State) (d : Word) : Outcome :=
  (withBasic b a s fun bl _ av s => (writeLoc bl av s).bind fun _ s => .ok () (bumpIJ d s)).outcome

/-- STI b, a: I and J incremented (R179). -/
def execSti (b a : Operand) (s : State) : Outcome := setAndBump b a s 1

/-- STD b, a: I and J decremented (R180). -/
def execStd (b a : Operand) (s : State) : Outcome := setAndBump b a s (-1)

end Sys2Proof.Machine
end

