-- ==== Sys2Proof/Machine/Cond.lean ====
section
/-! DEFINITION. The conditional instructions (43_conditionals.md). -/

namespace Sys2Proof.Machine
open Sys2Proof

/-- IFB b, a (R201). -/
def execIfb (b a : Operand) (s : State) : Outcome := conditional b a s ifbCond

/-- IFC b, a (R202). -/
def execIfc (b a : Operand) (s : State) : Outcome := conditional b a s ifcCond

/-- IFE b, a (R203). -/
def execIfe (b a : Operand) (s : State) : Outcome := conditional b a s ifeCond

/-- IFN b, a (R204). -/
def execIfn (b a : Operand) (s : State) : Outcome := conditional b a s ifnCond

/-- IFG b, a (R205). -/
def execIfg (b a : Operand) (s : State) : Outcome := conditional b a s ifgCond

/-- IFA b, a (R206). -/
def execIfa (b a : Operand) (s : State) : Outcome := conditional b a s ifaCond

/-- IFL b, a (R207). -/
def execIfl (b a : Operand) (s : State) : Outcome := conditional b a s iflCond

/-- IFU b, a (R208). -/
def execIfu (b a : Operand) (s : State) : Outcome := conditional b a s ifuCond

end Sys2Proof.Machine
end

