-- ==== Sys2Proof/Machine/Logic.lean ====
section
/-! DEFINITION. The logic and shift instructions (42_arithmetic.md). -/

namespace Sys2Proof.Machine
open Sys2Proof

/-- AND b, a (R170). -/
def execAnd (b a : Operand) (s : State) : Outcome := produce b a s fun bv av => bv &&& av

/-- BOR b, a (R171). -/
def execBor (b a : Operand) (s : State) : Outcome := produce b a s fun bv av => bv ||| av

/-- XOR b, a (R172). -/
def execXor (b a : Operand) (s : State) : Outcome := produce b a s fun bv av => bv ^^^ av

/-- SHR b, a (R173). -/
def execShr (b a : Operand) (s : State) : Outcome := produceEx b a s fun bv av _ => shrValue bv av

/-- ASR b, a (R174). -/
def execAsr (b a : Operand) (s : State) : Outcome := produceEx b a s fun bv av _ => asrValue bv av

/-- SHL b, a (R175). -/
def execShl (b a : Operand) (s : State) : Outcome := produceEx b a s fun bv av _ => shlValue bv av

end Sys2Proof.Machine
end

