-- ==== Sys2Proof/Machine/Reserved.lean ====
section
/-! DEFINITION. The reserved opcodes (44_special.md R230): a defined halt, not a fault. -/

namespace Sys2Proof.Machine
open Sys2Proof

/-- What a reserved opcode does once its operands are resolved (R230). -/
def reservedHalt (s : State) : Res Unit := .ok () ((s.setReservedExec true).setHalt true)

/-- A reserved basic word: both operands are resolved, none is read or written (R230). -/
def reservedBasic (b a : Operand) (s : State) : Outcome :=
  ((resolve b s).bind fun _ s => (resolve a s).bind fun _ s => reservedHalt s).outcome

/-- A reserved special word: its operand is resolved, not read (R230). -/
def reservedSpecial (a : Operand) (s : State) : Outcome :=
  ((resolve a s).bind fun _ s => reservedHalt s).outcome

/-- Basic opcode 0x18 (R230). -/
def execReservedBasic18 (b a : Operand) (s : State) : Outcome := reservedBasic b a s

/-- Basic opcode 0x19 (R230). -/
def execReservedBasic19 (b a : Operand) (s : State) : Outcome := reservedBasic b a s

/-- Basic opcode 0x1C (R230). -/
def execReservedBasic1C (b a : Operand) (s : State) : Outcome := reservedBasic b a s

/-- Basic opcode 0x1D (R230). -/
def execReservedBasic1D (b a : Operand) (s : State) : Outcome := reservedBasic b a s

/-- Special opcode 0x00 (R230). -/
def execReservedSpecial00 (a : Operand) (s : State) : Outcome := reservedSpecial a s

/-- Special opcode 0x02 (R230). -/
def execReservedSpecial02 (a : Operand) (s : State) : Outcome := reservedSpecial a s

/-- Special opcode 0x03 (R230). -/
def execReservedSpecial03 (a : Operand) (s : State) : Outcome := reservedSpecial a s

/-- Special opcode 0x04 (R230). -/
def execReservedSpecial04 (a : Operand) (s : State) : Outcome := reservedSpecial a s

/-- Special opcode 0x05 (R230). -/
def execReservedSpecial05 (a : Operand) (s : State) : Outcome := reservedSpecial a s

/-- Special opcode 0x06 (R230). -/
def execReservedSpecial06 (a : Operand) (s : State) : Outcome := reservedSpecial a s

/-- Special opcode 0x0D (R230). -/
def execReservedSpecial0D (a : Operand) (s : State) : Outcome := reservedSpecial a s

/-- Special opcode 0x0E (R230). -/
def execReservedSpecial0E (a : Operand) (s : State) : Outcome := reservedSpecial a s

/-- Special opcode 0x0F (R230). -/
def execReservedSpecial0F (a : Operand) (s : State) : Outcome := reservedSpecial a s

/-- Special opcode 0x13 (R230). -/
def execReservedSpecial13 (a : Operand) (s : State) : Outcome := reservedSpecial a s

/-- Special opcode 0x14 (R230). -/
def execReservedSpecial14 (a : Operand) (s : State) : Outcome := reservedSpecial a s

/-- Special opcode 0x15 (R230). -/
def execReservedSpecial15 (a : Operand) (s : State) : Outcome := reservedSpecial a s

/-- Special opcode 0x16 (R230). -/
def execReservedSpecial16 (a : Operand) (s : State) : Outcome := reservedSpecial a s

/-- Special opcode 0x17 (R230). -/
def execReservedSpecial17 (a : Operand) (s : State) : Outcome := reservedSpecial a s

/-- Special opcode 0x18 (R230). -/
def execReservedSpecial18 (a : Operand) (s : State) : Outcome := reservedSpecial a s

/-- Special opcode 0x19 (R230). -/
def execReservedSpecial19 (a : Operand) (s : State) : Outcome := reservedSpecial a s

/-- Special opcode 0x1A (R230). -/
def execReservedSpecial1A (a : Operand) (s : State) : Outcome := reservedSpecial a s

/-- Special opcode 0x1B (R230). -/
def execReservedSpecial1B (a : Operand) (s : State) : Outcome := reservedSpecial a s

/-- Special opcode 0x1C (R230). -/
def execReservedSpecial1C (a : Operand) (s : State) : Outcome := reservedSpecial a s

/-- Special opcode 0x1D (R230). -/
def execReservedSpecial1D (a : Operand) (s : State) : Outcome := reservedSpecial a s

/-- Special opcode 0x1E (R230). -/
def execReservedSpecial1E (a : Operand) (s : State) : Outcome := reservedSpecial a s

/-- Special opcode 0x1F (R230). -/
def execReservedSpecial1F (a : Operand) (s : State) : Outcome := reservedSpecial a s

end Sys2Proof.Machine
end

