-- ==== Sys2Proof/Machine/Special.lean ====
section
/-! DEFINITION. The special instructions (44_special.md): subroutine call, halt, interrupts, and the refused hardware
enumeration. -/

namespace Sys2Proof.Machine
open Sys2Proof

/-- JSR a: the live PC is pushed, then PC is the operand's value (R220). -/
def execJsr (a : Operand) (s : State) : Outcome :=
  (withSpecial a s fun _ av s => (pushWord s.pc s).bind fun _ s => .ok () (s.setPc av)).outcome

/-- HCF a: HALT is set; the operand's value is ignored (R221). -/
def execHcf (a : Operand) (s : State) : Outcome := (withSpecial a s fun _ _ s => .ok () (s.setHalt true)).outcome

/-- INT a: the operand's value is posted (R222). -/
def execInt (a : Operand) (s : State) : Outcome := (withSpecial a s fun _ av s => post av s).outcome

/-- IAG a: IA is written to the operand (R223). -/
def execIag (a : Operand) (s : State) : Outcome := (withSpecial a s fun al _ s => writeLoc al s.ia s).outcome

/-- IAS a: IA is the operand's value (R224). -/
def execIas (a : Operand) (s : State) : Outcome := (withSpecial a s fun _ av s => .ok () (s.setIa av)).outcome

/-- RFI a: the operand's value is ignored; the return from interrupt (R225). -/
def execRfi (a : Operand) (s : State) : Outcome := (withSpecial a s fun _ _ s => returnFromInterrupt s).outcome

/-- IAQ a: SUSP says whether the operand's value is not 0 (R226). -/
def execIaq (a : Operand) (s : State) : Outcome := (withSpecial a s fun _ av s => .ok () (s.setSusp (av != 0))).outcome

/-- `raise Refuse(UnmodelledInstruction(r))`: right after the opcode fetch, so that the mark is all it changes (R144,
R277; log 2). -/
def refuse (r : RefuseReason) (s : State) : Outcome := .next (s.setRefused r)

/-- HWN a: refused, its operand not resolved (R227). -/
def execHwn (_ : Operand) (s : State) : Outcome := refuse .hwn s

/-- HWQ a: refused (R228). -/
def execHwq (_ : Operand) (s : State) : Outcome := refuse .hwq s

/-- HWI a: refused (R229). -/
def execHwi (_ : Operand) (s : State) : Outcome := refuse .hwi s

end Sys2Proof.Machine
end

