-- ==== Sys2Proof/Machine/Cycle.lean ====
section
/-! DEFINITION. The three kinds of step and the choice among them (41_execution_cycle.md R140-R154). -/

namespace Sys2Proof.Machine
open Sys2Proof

/-- `SkipStep()` (R143): the opcode word is read, PC passes the whole instruction, SKIP is cleared. -/
def skipStep (s : State) : Res Unit :=
  (memRead s.pc s.captureShadows).bind fun w t =>
    .ok () ((t.setPc (t.pc + BitVec.ofNat 16 (wordLength w))).setSkip false)

/-- What follows an instruction's effect: CYC and the ticks, unless a fault or a refusal was raised (R147, R148). -/
def finishStep (w : Word) (o : Outcome) : Outcome :=
  match o with
  | .next t => if t.marked then .next t else (retire w t).outcome
  | .fault r => .fault r
  | .refused r => .refused r

/-- `ExecStep()` (R141, R142, R144-R148): shadows, opcode fetch, the decoded instruction, CYC and ticks. -/
def execStep (s : State) : Outcome :=
  match fetch s.captureShadows with
  | .raised t => .next t
  | .ok w t => finishStep w (exec (decode w) t)

/-- The step of a core that is not stopped: a pending skip, then a dispatch, then an instruction (R140, R273). -/
def runningStep (s : State) : Outcome :=
  if s.skip then (skipStep s).outcome
  else if s.dispatchEligible then (dispatch s).outcome
  else execStep s

/-- `Step()` (R140): a stopped core takes no step, and the answer names the mark (log 3). -/
def nextStep (s : State) : Outcome :=
  match s.fault, s.refused, s.halt with
  | some r, _, _ => .fault (.raised r)
  | none, some r, _ => .refused (.unmodelledInstruction r)
  | none, none, true => .fault .halted
  | none, none, false => runningStep s

end Sys2Proof.Machine
end

