-- ==== Sys2Proof/Machine/Step.lean ====
section
/-! DEFINITION. The machine's step, and the placing of an instruction where it fetches the next one. -/

namespace Sys2Proof.Machine
open Sys2Proof

/-- One step of the core (R140, R153). -/
def step (s : State) : Host.Outcome State Fault Refusal := Sys2Proof.Machine.nextStep s

/-- An instruction of the opcode table stored at PC, where an instruction step fetches (R142; log 9). -/
def State.withFetchWord (s : State) (nbits w : Nat) : State := Sys2Proof.Machine.placeInstr nbits w s.pc s

end Sys2Proof.Machine
end

