-- ==== Sys2Proof/Machine/HostControl.lean ====
section
/-! DEFINITION. What the outside does between steps (70_reset_and_hazards.md R300-R314, 20_memory.md R60-R62): reset,
attach, detach, peek, poke, image load, the run commands, and a device's halt request. -/

namespace Sys2Proof.Machine
open Sys2Proof

/-- Reset: every value of R40 but LINE and DEVS, which stay; no device is called, and what devices have seen stays (R300). -/
def hostReset (s : State) : State :=
  { State.reset with intQueueCap := s.intQueueCap, lines := s.lines, devs := s.devs, calls := s.calls }

/-- Why a host action failed, changing nothing. -/
inductive HostError where
  /-- attach to a line that a device claims (R61) -/
  | lineClaimed
  /-- attach of a device that is attached already (R60: a device attaches to exactly one line or none; log 8) -/
  | alreadyAttached
  /-- an image of more than 65,536 words (R303) -/
  | imageTooLong
  /-- a byte image that is no whole number of words (log 9) -/
  | oddImage
deriving DecidableEq, Repr

/-- What a host action that may fail leaves. -/
inductive HostResult where
  | done (s : State)
  | failed (e : HostError)
deriving DecidableEq, Repr

/-- `attach(device, none)`: the device goes to the end of DEVS (R60). -/
def hostAttach (d : DeviceId) (s : State) : HostResult :=
  if d ∈ s.devs then .failed .alreadyAttached else .done { s with devs := s.devs ++ [d] }

/-- `attach(device, n)`: as well, `LINE[n] <- device`, unless the line is claimed (R60, R61). -/
def hostAttachLine (d : DeviceId) (n : BitVec 4) (s : State) : HostResult :=
  if s.lines[n.toFin] = none then
    if d ∈ s.devs then .failed .alreadyAttached
    else .done { s with devs := s.devs ++ [d], lines := s.lines.set n.toFin (some d) }
  else .failed .lineClaimed

/-- `detach(device)`: off DEVS, and its line claimed by none (R62). -/
def hostDetach (d : DeviceId) (s : State) : State :=
  { s with devs := s.devs.filter (· ≠ d), lines := s.lines.map fun l => if l = some d then none else l }

/-- Peek (R310). -/
def hostPeek (a : Word) (s : State) : Word := s.rawRead a

/-- Poke (R310). -/
def hostPoke (a v : Word) (s : State) : State := s.rawWrite a v

/-- Words stored from an address on, with `RawWrite`. -/
def storeWords : List Word → Word → State → State
  | [], _, s => s
  | w :: ws, a, s => storeWords ws (a + 1) (s.rawWrite a w)

/-- Image load: word i at address i; too long an image loads nothing (R303). -/
def hostLoad (image : List Word) (s : State) : HostResult :=
  if image.length ≤ Config.ramWords then .done (storeWords image 0 s) else .failed .imageTooLong

/-- IMAGE_BYTE_ORDER, a parameter of the loader (R51, D29). -/
inductive ByteOrder where
  | bigEndian
  | littleEndian
deriving DecidableEq, Repr

/-- The words of a byte image, none where a byte is left over. -/
def wordsOfBytes (order : ByteOrder) : List (BitVec 8) → Option (List Word)
  | [] => some []
  | [_] => none
  | x :: y :: bytes =>
    (wordsOfBytes order bytes).map fun ws => (match order with
      | .bigEndian => x ++ y
      | .littleEndian => y ++ x) :: ws

/-- Load from a byte file (R51, R303). -/
def hostLoadBytes (order : ByteOrder) (bytes : List (BitVec 8)) (s : State) : HostResult :=
  match wordsOfBytes order bytes with
  | some image => hostLoad image s
  | none => .failed .oddImage

/-- single-step: one step, if the core is not stopped (R311). -/
def singleStep (s : State) : State :=
  match step s with
  | .next t => t
  | .fault _ => s
  | .refused _ => s

/-- run-N-steps: stopping early if the core is stopped (R311). -/
def runSteps : Nat → State → State
  | 0, s => s
  | n + 1, s => if s.stopped then s else runSteps n (singleStep s)

/-- The states run-until-halt passes through (R311): it ends in `t` if `t` is stopped and some number of steps leads to it
(log 10). -/
def RunsUntilHalt (s t : State) : Prop := t.stopped = true ∧ ∃ n, runSteps n s = t

/-- A halt request a device makes between steps (R274). -/
def deviceHaltBetweenSteps (s : State) : State := s.setHalt true

end Sys2Proof.Machine
end

