-- ==== Sys2Proof/Safety.lean ====
section
/-! DEFINITION. The terms claims use: the invariant of the machine, the machine whose lines no device claims, and the
operands of an instruction there in closed form; what an instruction names as its destination. -/

namespace Sys2Proof

/-- The operand an instruction writes its result to: b of a value-producing basic instruction (R160), a of IAG (R223); a
conditional, a reserved opcode and the other special instructions write none (R146, R200, R230). -/
def Instr.destination : Instr → Option Operand
  | .set b _ | .add b _ | .sub b _ | .mul b _ | .mli b _ | .div b _ | .dvi b _ | .mod b _ | .mdi b _ | .and b _
  | .bor b _ | .xor b _ | .shr b _ | .asr b _ | .shl b _ | .adx b _ | .sbx b _ | .sti b _ | .std b _ => some b
  | .iag a => some a
  | .ifb _ _ | .ifc _ _ | .ife _ _ | .ifn _ _ | .ifg _ _ | .ifa _ _ | .ifl _ _ | .ifu _ _ => none
  | .reservedBasic18 _ _ | .reservedBasic19 _ _ | .reservedBasic1C _ _ | .reservedBasic1D _ _ => none
  | .jsr _ | .hcf _ | .int _ | .ias _ | .rfi _ | .iaq _ | .hwn _ | .hwq _ | .hwi _ => none
  | .reservedSpecial00 _ | .reservedSpecial02 _ | .reservedSpecial03 _ | .reservedSpecial04 _
  | .reservedSpecial05 _ | .reservedSpecial06 _ | .reservedSpecial0D _ | .reservedSpecial0E _
  | .reservedSpecial0F _ | .reservedSpecial13 _ | .reservedSpecial14 _ | .reservedSpecial15 _
  | .reservedSpecial16 _ | .reservedSpecial17 _ | .reservedSpecial18 _ | .reservedSpecial19 _
  | .reservedSpecial1A _ | .reservedSpecial1B _ | .reservedSpecial1C _ | .reservedSpecial1D _
  | .reservedSpecial1E _ | .reservedSpecial1F _ => none

/-- A basic or special opcode R90 calls reserved. -/
def Instr.isReserved (i : Instr) : Bool :=
  match i.format with
  | .basic o _ _ => o ∈ [0x18#5, 0x19#5, 0x1C#5, 0x1D#5]
  | .special s _ => s ∈ [0x00#5, 0x02#5, 0x03#5, 0x04#5, 0x05#5, 0x06#5, 0x0D#5, 0x0E#5, 0x0F#5] || (0x13#5 ≤ s : Bool)

/-- HWN, HWQ, HWI (R91). -/
def Instr.isRefused (i : Instr) : Bool :=
  match i.format with
  | .basic _ _ _ => false
  | .special s _ => s ∈ [0x10#5, 0x11#5, 0x12#5]

/-- The conditionals, o from 0x10 to 0x17 (R200). -/
def Instr.isConditional (i : Instr) : Bool :=
  match i.format with
  | .basic o _ _ => (0x10#5 ≤ o : Bool) && (o ≤ 0x17#5 : Bool)
  | .special _ _ => false

/-- The instructions that write EX as a side effect: ADD, SUB, MUL, MLI, DIV, DVI, SHR, ASR, SHL, ADX, SBX (R23). -/
def Instr.setsEx (i : Instr) : Bool :=
  match i.format with
  | .basic o _ _ => o ∈ [0x02#5, 0x03#5, 0x04#5, 0x05#5, 0x06#5, 0x07#5, 0x0D#5, 0x0E#5, 0x0F#5, 0x1A#5, 0x1B#5]
  | .special _ _ => false

/-- JSR and RFI (R152). -/
def Instr.isJsrOrRfi (i : Instr) : Bool :=
  match i.format with
  | .basic _ _ _ => false
  | .special s _ => s ∈ [0x01#5, 0x0B#5]

/-- The operands of an instruction, b first. -/
def Instr.operands (i : Instr) : List Operand :=
  match i.format with
  | .basic _ b a => [b, a]
  | .special _ a => [a]

end Sys2Proof

namespace Sys2Proof.Machine
open Sys2Proof

/-- No line is claimed (R55): every access is to RAM. Devices may still be attached and ticked. -/
abbrev State.Unclaimed (s : State) : Prop := s.lines = Vector.replicate 16 none

/-- No device is attached at all. -/
abbrev State.NoDevices (s : State) : Prop := s.Unclaimed ∧ s.devs = []

/-- The next step executes the instruction at PC: not stopped, no pending skip, no dispatch (R140). -/
abbrev State.Executes (s : State) : Prop := s.stopped = false ∧ s.skip = false ∧ s.dispatchEligible = false

/-- The line table and DEVS agree: a claiming device is attached, none is attached twice, none claims two lines (R60). -/
def State.LinesConsistent (s : State) : Prop :=
  (∀ (n : Fin 16) (d : DeviceId), s.lines[n] = some d → d ∈ s.devs) ∧ s.devs.Nodup ∧
  ∀ (m n : Fin 16) (d : DeviceId), s.lines[m] = some d → s.lines[n] = some d → m = n

/-- The invariant: RAM in canonical form, the queue within its capacity, RESERVED_EXEC only on a halted core (R230), FAULT only
with a full queue (R264, R276), LINE and DEVS in agreement. -/
def State.Inv (s : State) : Prop :=
  Memory.wf s.ram = true ∧ s.intq.length ≤ s.intQueueCap ∧ (s.reservedExec = true → s.halt = true) ∧
  (s.fault.isSome = true → s.intq.length = s.intQueueCap) ∧ s.LinesConsistent

/-- An operand resolved where no line is claimed: its location and the state after (R111-R123). -/
def plainResolve (o : Operand) (s : State) : Loc × State :=
  match o with
  | .reg r => (.reg r, s)
  | .regInd r => (.mem (s.reg r), s)
  | .regOff r => (.mem (s.reg r + s.rawRead s.pc), s.setPc (s.pc + 1))
  | .push => (.mem (s.sp - 1), s.setSp (s.sp - 1))
  | .pop => (.mem s.sp, s.setSp (s.sp + 1))
  | .peek => (.mem s.sp, s)
  | .pick => (.mem (s.sp + s.rawRead s.pc), s.setPc (s.pc + 1))
  | .sp => (.sp, s)
  | .pc => (.pc, s)
  | .ex => (.ex, s)
  | .nextInd => (.mem (s.rawRead s.pc), s.setPc (s.pc + 1))
  | .nextLit => (.lit (s.rawRead s.pc), s.setPc (s.pc + 1))
  | .short v => (.lit v, s)

/-- A location read where no line is claimed (R125). -/
def plainRead (l : Loc) (s : State) : Word :=
  match l with
  | .reg r => s.reg r
  | .pc => s.pc0
  | .sp => s.sp0
  | .ex => s.ex
  | .mem a => s.rawRead a
  | .lit v => v

/-- A location written where no line is claimed (R126). -/
def plainWrite (l : Loc) (v : Word) (s : State) : State :=
  match l with
  | .reg r => s.setReg r v
  | .pc => s.setPc v
  | .sp => s.setSp v
  | .ex => s.setEx v
  | .mem a => s.rawWrite a v
  | .lit _ => s

/-- A basic instruction's operands: b's location, both values, and the state after the decode. -/
structure BasicOperands where
  loc : Loc
  bv : Word
  av : Word
  after : State

/-- The state after a result is written to b. -/
def BasicOperands.store (d : BasicOperands) (v : Word) : State := plainWrite d.loc v d.after

/-- b resolved, then a; then b read, then a (R127, R145). -/
def State.basicOperands (s : State) (b a : Operand) : BasicOperands :=
  let (bl, s1) := plainResolve b s
  let (al, s2) := plainResolve a s1
  ⟨bl, plainRead bl s2, plainRead al s2, s2⟩

/-- A special instruction's operand: its location, its value, and the state after the decode. -/
structure SpecialOperand where
  loc : Loc
  av : Word
  after : State

/-- a resolved, then read (R127, R145). -/
def State.specialOperand (s : State) (a : Operand) : SpecialOperand :=
  let (al, s1) := plainResolve a s
  ⟨al, plainRead al s1, s1⟩

/-- `i`, with operands b and a, runs as a value-producing instruction that leaves EX, its result `f bv av` (R146, R160): on
every machine b and a are resolved and read and the result written to b; where no line is claimed it COMPLETES, with the
result written to b in the state the decode leaves, EX as it was unless it is the destination. -/
def CompletesWriting (i : Instr) (b a : Operand) (f : Word → Word → Word) : Prop :=
  ∀ s : State, exec i s = (withBasic b a s fun bl bv av u => writeLoc bl (f bv av) u).outcome ∧
    (s.Unclaimed →
      let d := s.basicOperands b a
      exec i s = .next (d.store (f d.bv d.av)) ∧ (b ≠ .ex → (d.store (f d.bv d.av)).ex = s.ex))

/-- `i`, with operands b and a, runs as a value-producing instruction that sets EX, its result `f bv av EX` and its new EX
`g bv av EX` (R146, R160, R178): on every machine b and a are resolved and read, the result written to b and then EX; where no line
is claimed it COMPLETES so. -/
def CompletesWritingEx (i : Instr) (b a : Operand) (f g : Word → Word → Word → Word) : Prop :=
  ∀ s : State,
    exec i s = (withBasic b a s fun bl bv av u =>
      (writeLoc bl (f bv av u.ex) u).bind fun _ t => .ok () { t with ex := g bv av u.ex }).outcome ∧
    (s.Unclaimed →
      let d := s.basicOperands b a
      exec i s = .next { d.store (f d.bv d.av s.ex) with ex := g d.bv d.av s.ex })

/-- `i`, with operands b and a, runs as a conditional (R200): on every machine b and a are resolved and read and SKIP is set
if `cond bv av` is false; where no line is claimed it COMPLETES so, in the state the decode leaves. -/
def CompletesTesting (i : Instr) (b a : Operand) (cond : Word → Word → Bool) : Prop :=
  ∀ s : State,
    exec i s = (withBasic b a s fun _ bv av u =>
      .ok () (if cond bv av = true then u else { u with skip := true })).outcome ∧
    (s.Unclaimed →
      let d := s.basicOperands b a
      (cond d.bv d.av = true → exec i s = .next d.after) ∧
      (cond d.bv d.av = false → exec i s = .next { d.after with skip := true }))

/-- The ticks among the calls made so far. -/
def State.ticks (s : State) : List DeviceCall :=
  s.calls.filter fun c => match c with
    | .onTick _ _ => true
    | .onRead _ _ => false
    | .onWrite _ _ _ _ => false

/-- The address of a memory location. -/
def Loc.address : Loc → Option Word
  | .mem x => some x
  | .reg _ | .pc | .sp | .ex | .lit _ => none

/-- The address an instruction stores to where no line is claimed: its destination's (R126, R160, R223), or the stack slot JSR
pushes to (R220); none for an instruction that stores nothing. -/
def storeAddress (i : Instr) (s : State) : Option Word :=
  match i.format with
  | .basic _ b a => if i.destination.isSome then (s.basicOperands b a).loc.address else none
  | .special o a =>
    if o = 0x01#5 then some ((s.specialOperand a).after.sp - 1)
    else if i.destination.isSome then (s.specialOperand a).loc.address else none

end Sys2Proof.Machine
end

