-- ==== Sys2Proof/Certificates/Slice0/Obligations.lean ====
section
/-! DEFINITION. The statements about the machine, each from the spec's numbered rules. -/

open Sys2Proof Sys2Proof.Machine

/-- Decoding an encoded instruction gives it back (30_encoding.md R81, R82, R83, R84, R95). For every well-formed
instruction of the whole table, with every operand at every value its field admits, decode (encode i) is i. -/
def Obligations.DecodeOfEncode : Prop :=
  ∀ i : Instr, i.wellFormed = true → decode (encode i) = i

/-- Every word decodes to exactly one instruction and is its encoding (R94). For every 16-bit word w: decode w is well
formed, its encoding is w, no other well-formed instruction has the encoding w, and it is not both reserved and refused.
With as many further words as it takes (0 to 2), the word list decodes to that one instruction with those trailing
words. -/
def Obligations.EveryWordIsOneInstruction : Prop :=
  ∀ w : Word, (decode w).wellFormed = true ∧ encode (decode w) = w ∧
    (∀ i : Instr, i.wellFormed = true → encode i = w → i = decode w) ∧
    ¬((decode w).isReserved = true ∧ (decode w).isRefused = true) ∧ (decode w).trailing ≤ 2 ∧
    ∀ tr rest : List Word, tr.length = (decode w).trailing → decodeWords (w :: (tr ++ rest)) = .instr (decode w) tr rest

/-- An instruction's length is a function of its opcode word alone (R85, R87). For every word, with o, b and a its bits 4:0,
9:5 and 15:10 as numbers: the length is 1 + needs(a) when o = 0 and 1 + needs(b) + needs(a) otherwise, where needs(c) is
1 exactly for c in 0x10-0x17, 0x1A, 0x1E, 0x1F; it is the length of the decoded instruction. -/
def Obligations.LengthFromOpcodeWord : Prop :=
  ∀ w : Word,
    let o := w.toNat % 32
    let b := w.toNat / 32 % 32
    let a := w.toNat / 1024
    let needs : Nat → Nat := fun c => if (0x10 ≤ c ∧ c ≤ 0x17) ∨ c = 0x1A ∨ c = 0x1E ∨ c = 0x1F then 1 else 0
    wordLength w = (if o = 0 then 1 + needs a else 1 + needs b + needs a) ∧ (decode w).length = wordLength w

/-- The worked encodings of the spec decode to the instructions they are given for (R95). 0x8821 is SET B, 1; 0x8D00 INT 2;
0x9021 SET B, 3; 0x8C21 SET B, 2; 0x84E0 HCF 0; 0x8560 RFI 0; 0x7D40 IAS next word; 0xFC01 SET A, 30; 0x7C01 SET A, next
word; 0x8001 SET A, -1; and the constants 31 and -2 take a trailing word. -/
def Obligations.WrittenWordsDecode : Prop :=
  decode 0x8821 = .set (.reg .b) (.short 1) ∧ decode 0x8D00 = .int (.short 2) ∧
    decode 0x9021 = .set (.reg .b) (.short 3) ∧ decode 0x8C21 = .set (.reg .b) (.short 2) ∧
    decode 0x84E0 = .hcf (.short 0) ∧ decode 0x8560 = .rfi (.short 0) ∧
    decodeWords [0x7D40, 0x0006] = .instr (.ias .nextLit) [0x0006] [] ∧
    decode 0xFC01 = .set (.reg .a) (.short 30) ∧ decode 0x8001 = .set (.reg .a) (.short 0xFFFF) ∧
    decodeWords [0x7C01, 0x001F] = .instr (.set (.reg .a) .nextLit) [0x001F] [] ∧
    decodeWords [0x7C01, 0xFFFE] = .instr (.set (.reg .a) .nextLit) [0xFFFE] [] ∧
    (∀ o : BitVec 5, ∀ b a : Operand, ∀ i : Instr, i.format = .basic o b a →
      (encode i).toNat = a.code6.toNat * 1024 + b.code5.toNat * 32 + o.toNat) ∧
    ∀ o : BitVec 5, ∀ a : Operand, ∀ i : Instr, i.format = .special o a →
      (encode i).toNat = a.code6.toNat * 1024 + o.toNat * 32

/-- Codes 0x20 to 0x3F of field a are the literals -1 to 30 (R84, R123). For every code c from 0x20 on, field a decodes to a
packed immediate whose signed value is c - 0x21; it resolves to that literal without any side effect and reads as it. -/
def Obligations.PackedImmediates : Prop :=
  ∀ c : BitVec 6, 0x20 ≤ c.toNat → ∃ v : Word, decodeA c = .short v ∧ v.toInt = (c.toNat : Int) - 0x21 ∧
    ∀ s : State, resolve (.short v) s = .ok (.lit v) s ∧ readLoc (.lit v) s = .ok v s

/-- The operand classes that take no trailing word: location and SP change (R111, R112, R114, R115, R116, R118, R119, R120).
In every state: a register is its own location, [r] is memory at r, PUSH decrements SP and is memory at the new SP, POP
is memory at the old SP and increments SP, PEEK is memory at SP, PC, EX and SP are their registers; a read of PC or SP
gives PC0 or SP0 and a write lands on the live register. -/
def Obligations.RegisterAndStackClasses : Prop :=
  ∀ (s : State) (r : Reg) (v : Word),
    resolve (.reg r) s = .ok (.reg r) s ∧ resolve (.regInd r) s = .ok (.mem (s.reg r)) s ∧
    resolve .push s = .ok (.mem (s.sp - 1)) { s with sp := s.sp - 1 } ∧
    resolve .pop s = .ok (.mem s.sp) { s with sp := s.sp + 1 } ∧ resolve .peek s = .ok (.mem s.sp) s ∧
    resolve .pc s = .ok .pc s ∧ resolve .ex s = .ok .ex s ∧ resolve .sp s = .ok .sp s ∧
    readLoc .pc s = .ok s.pc0 s ∧ readLoc .sp s = .ok s.sp0 s ∧
    writeLoc .pc v s = .ok () { s with pc := v } ∧ writeLoc .sp v s = .ok () { s with sp := v }

/-- The operand classes that take a trailing word, and the fetch (R113, R117, R121, R122, R124). On every machine, devices
or not: Fetch reads the word at PC through the multiplexer and then sets PC to u16(PC + 1); [r + next] is memory at the
wrapped sum of r and that word, PICK memory at SP + next, [next] memory at the word, the literal form the word itself, r
and SP being as they were, each in the state the fetch leaves; a fault raised by the fetch ends them. -/
def Obligations.WordTakingClasses : Prop :=
  ∀ (s : State) (r : Reg),
    let fetched : (Word → Loc) → Res Loc := fun loc => (memRead s.pc s).bind fun w t => .ok (loc w) { t with pc := s.pc + 1 }
    fetch s = ((memRead s.pc s).bind fun w t => .ok w { t with pc := s.pc + 1 }) ∧
    resolve (.regOff r) s = fetched (fun w => .mem (BitVec.ofNat 16 ((s.reg r).toNat + w.toNat))) ∧
    resolve .pick s = fetched (fun w => .mem (BitVec.ofNat 16 (s.sp.toNat + w.toNat))) ∧
    resolve .nextInd s = fetched .mem ∧ resolve .nextLit s = fetched .lit

/-- Read and Write of every kind of location (R125, R126). In every state: Read gives the register, PC0, SP0, EX, the
multiplexer's word or the constant, and Write changes the register, PC, SP, EX or goes through the multiplexer; a write
to a constant has no effect. -/
def Obligations.ReadsAndWritesOfLocations : Prop :=
  ∀ (s : State) (r : Reg) (x v : Word),
    readLoc (.reg r) s = .ok (s.reg r) s ∧ readLoc .pc s = .ok s.pc0 s ∧ readLoc .sp s = .ok s.sp0 s ∧
    readLoc .ex s = .ok s.ex s ∧ readLoc (.mem x) s = memRead x s ∧ readLoc (.lit v) s = .ok v s ∧
    (∃ t, writeLoc (.reg r) v s = .ok () t ∧ t = { s with regs := t.regs } ∧ t.reg r = v ∧
      ∀ q, q ≠ r → t.reg q = s.reg q) ∧
    writeLoc .pc v s = .ok () { s with pc := v } ∧ writeLoc .sp v s = .ok () { s with sp := v } ∧
    writeLoc .ex v s = .ok () { s with ex := v } ∧ writeLoc (.mem x) v s = memWrite x v s ∧
    writeLoc (.lit x) v s = .ok () s

/-- Within an instruction PC and SP read as at its start, and a write to them overrides its decode (40_operand_resolver.md
R125, R126, R129, R130, 70_reset_and_hazards.md R307). Where no line is claimed, whatever the other operand: a PC
operand's value is PC0 and an SP operand's is SP0; SET PC, a leaves PC at a's value and SET SP, a leaves SP at a's
value, all else as the decode left it. -/
def Obligations.PcAndSpOperandsInOneInstruction : Prop :=
  ∀ (o : Operand) (s : State), s.Unclaimed →
    (s.basicOperands o .pc).av = s.pc0 ∧ (s.basicOperands o .sp).av = s.sp0 ∧
    (s.basicOperands .pc o).bv = s.pc0 ∧ (s.basicOperands .sp o).bv = s.sp0 ∧
    exec (.set .pc o) s = .next { (s.basicOperands .pc o).after with pc := (s.basicOperands .pc o).av } ∧
    exec (.set .sp o) s = .next { (s.basicOperands .sp o).after with sp := (s.basicOperands .sp o).av }

/-- Two stack operands: PUSH in b before POP or PEEK in a; PUSH of SP stores SP0 (40_operand_resolver.md R114, R115, R127,
R129, R130, 70_reset_and_hazards.md R308). Where no line is claimed and RAM is canonical: ADD PUSH, POP completes with
SP as before and the word at SP - 1 doubled, every other word as before (POP first would have doubled the word at SP);
SET PUSH, PEEK decrements SP and copies the word at the new SP onto itself, every word as before (PEEK first would have
copied the word at SP); SET PUSH, POP completes with SP and every word of RAM as before; SET PUSH, SP decrements SP and
stores SP0 at the new SP, every other word as before. -/
def Obligations.StackOperandsInOrder : Prop :=
  ∀ s : State, s.Unclaimed → Memory.wf s.ram = true →
    (∃ t, exec (.add .push .pop) s = .next t ∧ t.sp = s.sp ∧
      t.rawRead (s.sp - 1) = s.rawRead (s.sp - 1) + s.rawRead (s.sp - 1) ∧ ∀ x, x ≠ s.sp - 1 → t.rawRead x = s.rawRead x) ∧
    (∃ t, exec (.set .push .peek) s = .next t ∧ t.sp = s.sp - 1 ∧ ∀ x, t.rawRead x = s.rawRead x) ∧
    (∃ t, exec (.set .push .pop) s = .next t ∧ t.sp = s.sp ∧ ∀ x, t.rawRead x = s.rawRead x) ∧
    ∃ t, exec (.set .push .sp) s = .next t ∧ t.sp = s.sp - 1 ∧ t.rawRead (s.sp - 1) = s.sp0 ∧
      ∀ x, x ≠ s.sp - 1 → t.rawRead x = s.rawRead x

/-- SET writes the source's value and leaves EX (R161). On every machine b and a are resolved and read in order and the
result written back; where no line is claimed it completes so, for every destination and source form: SET b, a writes
a's value to b's location and changes nothing else after the decode. -/
def Obligations.SetResult : Prop :=
  ∀ b a : Operand,
    CompletesWriting (.set b a) b a (fun _ av => av)

/-- ADD and SUB: the wrapped result, and EX 1 on carry or borrow, else 0 (R162, R163). On every machine b and a are resolved
and read in order and the result written back; where no line is claimed it completes so, for every destination and
source form: ADD b, a writes b + a mod 2^16 and then EX = 1 if the exact sum is at least 0x10000, else 0; SUB writes b -
a mod 2^16 and EX = 1 if b < a, else 0. -/
def Obligations.AddAndSubResult : Prop :=
  ∀ b a : Operand,
    CompletesWritingEx (.add b a) b a (fun bv av _ => bv + av)
      (fun bv av _ => if 0x10000 ≤ bv.toNat + av.toNat then 1 else 0) ∧
    CompletesWritingEx (.sub b a) b a (fun bv av _ => bv - av) (fun bv av _ => if bv.toNat < av.toNat then 1 else 0)

/-- MUL and MLI: low and high word of the 32-bit product (R164, R165). On every machine b and a are resolved and read in
order and the result written back; where no line is claimed it completes so, for every destination and source form: MUL
writes the low word of the unsigned 32-bit product to b and its bits 31:16 to EX; MLI the same of the signed product, as
a 32-bit two's complement number. -/
def Obligations.MulAndMliResult : Prop :=
  ∀ b a : Operand,
    CompletesWritingEx (.mul b a) b a (fun bv av _ => (bv.zeroExtend 32 * av.zeroExtend 32).extractLsb' 0 16)
      (fun bv av _ => (bv.zeroExtend 32 * av.zeroExtend 32).extractLsb' 16 16) ∧
    CompletesWritingEx (.mli b a) b a (fun bv av _ => (bv.signExtend 32 * av.signExtend 32).extractLsb' 0 16)
      (fun bv av _ => (bv.signExtend 32 * av.signExtend 32).extractLsb' 16 16)

/-- DIV and DVI: quotient, fraction word, and 0 for a zero divisor (R166, R167). On every machine b and a are resolved and
read in order and the result written back; where no line is claimed it completes so, for every destination and source
form: DIV by 0 writes 0 and sets EX = 0, else writes the unsigned quotient and sets EX to u16((b * 65536) div a); DVI by
0 the same zeros, else the signed quotient rounded toward zero and EX = u16(trunc(b * 65536 / a)). -/
def Obligations.DivAndDviResult : Prop :=
  ∀ b a : Operand,
    CompletesWritingEx (.div b a) b a (fun bv av _ => if av = 0 then 0 else bv / av)
      (fun bv av _ => if av = 0 then 0 else BitVec.ofNat 16 (bv.toNat * 65536 / av.toNat)) ∧
    CompletesWritingEx (.dvi b a) b a (fun bv av _ => if av = 0 then 0 else bv.sdiv av)
      (fun bv av _ => if av = 0 then 0 else BitVec.ofInt 16 ((bv.toInt * 65536).tdiv av.toInt))

/-- MOD and MDI: remainders, 0 for a zero divisor, EX unchanged (R168, R169). On every machine b and a are resolved and read
in order and the result written back; where no line is claimed it completes so, for every destination and source form:
MOD writes the unsigned remainder, MDI the signed remainder with the sign of the dividend; a zero divisor writes 0; EX
is unchanged unless it is the destination. -/
def Obligations.ModAndMdiResult : Prop :=
  ∀ b a : Operand,
    CompletesWriting (.mod b a) b a (fun bv av => if av = 0 then 0 else bv % av) ∧
    CompletesWriting (.mdi b a) b a (fun bv av => if av = 0 then 0 else bv.srem av)

/-- AND, BOR and XOR: the bitwise results, EX unchanged (R170, R171, R172). On every machine b and a are resolved and read
in order and the result written back; where no line is claimed it completes so, for every destination and source form:
AND, BOR and XOR write the word whose bit n is the AND, OR or exclusive OR of bits n of b and a; EX is unchanged unless
it is the destination. -/
def Obligations.LogicResult : Prop :=
  ∀ b a : Operand,
    (∃ f : Word → Word → Word, CompletesWriting (.and b a) b a f ∧
      ∀ v w n, (f v w).getLsbD n = (v.getLsbD n && w.getLsbD n)) ∧
    (∃ f : Word → Word → Word, CompletesWriting (.bor b a) b a f ∧
      ∀ v w n, (f v w).getLsbD n = (v.getLsbD n || w.getLsbD n)) ∧
    ∃ f : Word → Word → Word, CompletesWriting (.xor b a) b a f ∧
      ∀ v w n, (f v w).getLsbD n = (v.getLsbD n != w.getLsbD n)

/-- SHR, ASR and SHL by the full 16-bit count (R173, R174, R175). On every machine b and a are resolved and read in order
and the result written back; where no line is claimed it completes so, for every destination and source form: SHR writes
the logical, ASR the arithmetic right shift of b by a, SHL the left shift, with no masking of the count; EX is u16((b *
65536) div 2^a), u16(floor(signed b * 65536 / 2^a)) and u16((b * 2^a) div 65536). -/
def Obligations.ShiftResult : Prop :=
  ∀ b a : Operand,
    CompletesWritingEx (.shr b a) b a (fun bv av _ => bv >>> av.toNat)
      (fun bv av _ => BitVec.ofNat 16 (bv.toNat * 65536 / 2 ^ av.toNat)) ∧
    CompletesWritingEx (.asr b a) b a (fun bv av _ => bv.sshiftRight av.toNat)
      (fun bv av _ => BitVec.ofInt 16 (Int.fdiv (bv.toInt * 65536) (2 ^ av.toNat))) ∧
    CompletesWritingEx (.shl b a) b a (fun bv av _ => bv <<< av.toNat)
      (fun bv av _ => BitVec.ofNat 16 (bv.toNat * 2 ^ av.toNat / 65536))

/-- The corner cases of shifts by 0, 16, 17 to 31 and 32 or more (42_arithmetic.md R173, R174, R175). For every value: a
count of 0 leaves it with EX = 0; SHR and SHL by 16 give 0 with EX = the value; by 17 to 31, 0 with EX the value shifted
on by count - 16; by 32 or more, 0 and 0. ASR by 32 or more gives 0 or 0xFFFF in both, by the sign. The functions are
those the instructions SHR, SHL and ASR compute with. -/
def Obligations.ShiftCountsOfSixteenAndMore : Prop :=
  ∀ v n : Word,
    shrValue v 0 = (v, 0) ∧ shlValue v 0 = (v, 0) ∧ asrValue v 0 = (v, 0) ∧
    shrValue v 16 = (0, v) ∧ shlValue v 16 = (0, v) ∧
    (16 < n.toNat → n.toNat < 32 → shrValue v n = (0, v >>> (n.toNat - 16)) ∧ shlValue v n = (0, v <<< (n.toNat - 16))) ∧
    (32 ≤ n.toNat → shrValue v n = (0, 0) ∧ shlValue v n = (0, 0) ∧
      asrValue v n = if v.msb then (0xFFFF, 0xFFFF) else (0, 0))

/-- ADX and SBX: EX read as an unsigned carry input and set (R176, R177). On every machine b and a are resolved and read in
order and the result written back; where no line is claimed it completes so, for every destination and source form: ADX
writes b + a + EX and sets EX = 1 if the exact sum is at least 0x10000, else 0; SBX writes b - a + EX and sets EX =
0xFFFF if the exact value is negative, 1 if it is at least 0x10000, else 0. EX is its value at the time of the
computation. -/
def Obligations.AdxAndSbxResult : Prop :=
  ∀ b a : Operand,
    CompletesWritingEx (.adx b a) b a (fun bv av ex => bv + av + ex)
      (fun bv av ex => if 0x10000 ≤ bv.toNat + av.toNat + ex.toNat then 1 else 0) ∧
    CompletesWritingEx (.sbx b a) b a (fun bv av ex => bv - av + ex)
      (fun bv av ex => if bv.toNat + ex.toNat < av.toNat then 0xFFFF
        else if 0x10000 + av.toNat ≤ bv.toNat + ex.toNat then 1 else 0)

/-- STI and STD: SET, then I and J up or down by one (R179, R180). On every machine b and a are resolved and read in order,
a's value is written to b and then I and J are each one higher (STI) or lower (STD) mod 2^16. Where no line is claimed
they complete so, for every destination and source form: a destination I or J is changed once more, the operands were
computed before, and EX is unchanged unless it is the destination. -/
def Obligations.StiAndStdResult : Prop :=
  ∀ (b a : Operand) (s : State),
    let up : State → State := fun t => { t with regs := { t.regs with i := t.regs.i + 1, j := t.regs.j + 1 } }
    let down : State → State := fun t => { t with regs := { t.regs with i := t.regs.i - 1, j := t.regs.j - 1 } }
    let set : (State → State) → Outcome := fun f =>
      (withBasic b a s fun bl _ av u => (writeLoc bl av u).bind fun _ t => .ok () (f t)).outcome
    exec (.sti b a) s = set up ∧ exec (.std b a) s = set down ∧
    (s.Unclaimed →
      let t := (s.basicOperands b a).store (s.basicOperands b a).av
      exec (.sti b a) s = .next (up t) ∧ exec (.std b a) s = .next (down t) ∧ (b ≠ .ex → t.ex = s.ex))

/-- The eight conditionals: SKIP is set exactly when the condition is false (R201, R202, R203, R204, R205, R206, R207,
R208). On every machine b and a are resolved and read in order, and SKIP is set if the condition is false and left alone
if it is true; nothing is written. Where no line is claimed each completes so: IFB a bit in common, IFC none, IFE equal,
IFN unequal, IFG b > a unsigned, IFA b > a signed, IFL b < a unsigned, IFU b < a signed. -/
def Obligations.ConditionalResult : Prop :=
  ∀ b a : Operand,
    CompletesTesting (.ifb b a) b a (fun bv av => decide (∃ n : Fin 16, bv.getLsbD n = true ∧ av.getLsbD n = true)) ∧
    CompletesTesting (.ifc b a) b a (fun bv av => decide (∀ n : Fin 16, bv.getLsbD n = false ∨ av.getLsbD n = false)) ∧
    CompletesTesting (.ife b a) b a (fun bv av => decide (bv = av)) ∧
    CompletesTesting (.ifn b a) b a (fun bv av => decide (bv ≠ av)) ∧
    CompletesTesting (.ifg b a) b a (fun bv av => av.ult bv) ∧
    CompletesTesting (.ifa b a) b a (fun bv av => av.slt bv) ∧
    CompletesTesting (.ifl b a) b a (fun bv av => bv.ult av) ∧
    CompletesTesting (.ifu b a) b a (fun bv av => bv.slt av)

/-- With EX as destination, EX ends with the EX value the rule computes (R178). Where no line is claimed, for each of the
eleven instructions that set EX with EX itself as destination: it completes with exactly what the same instruction on
the same values leaves in EX, the result written before being lost. -/
def Obligations.ExIsWrittenAfterTheDestination : Prop :=
  ∀ (a : Operand) (s : State), s.Unclaimed →
    let d := s.basicOperands .ex a
    ∀ p ∈ [(Instr.add .ex a, (addValue d.bv d.av).2), (Instr.sub .ex a, (subValue d.bv d.av).2),
      (Instr.mul .ex a, (mulValue d.bv d.av).2), (Instr.mli .ex a, (mliValue d.bv d.av).2),
      (Instr.div .ex a, (divValue d.bv d.av).2), (Instr.dvi .ex a, (dviValue d.bv d.av).2),
      (Instr.shr .ex a, (shrValue d.bv d.av).2), (Instr.asr .ex a, (asrValue d.bv d.av).2),
      (Instr.shl .ex a, (shlValue d.bv d.av).2), (Instr.adx .ex a, (adxValue d.bv d.av s.ex).2),
      (Instr.sbx .ex a, (sbxValue d.bv d.av s.ex).2)],
      exec p.1 s = .next { d.after with ex := p.2 }

/-- Quotient and remainder at each sign combination (42_arithmetic.md R181). The values DVI and MDI compute for 7 and -7 by
2 and -2 and for -32768 by -1 are those of R181's table, and any dividend by 0 gives 0, 0 and 0. -/
def Obligations.SignedDivisionTable : Prop :=
  dviValue 7 2 = (3, 0x8000) ∧ mdiValue 7 2 = 1 ∧ dviValue 7 0xFFFE = (0xFFFD, 0x8000) ∧ mdiValue 7 0xFFFE = 1 ∧
    dviValue 0xFFF9 2 = (0xFFFD, 0x8000) ∧ mdiValue 0xFFF9 2 = 0xFFFF ∧
    dviValue 0xFFF9 0xFFFE = (3, 0x8000) ∧ mdiValue 0xFFF9 0xFFFE = 0xFFFF ∧
    dviValue 0x8000 0xFFFF = (0x8000, 0) ∧ mdiValue 0x8000 0xFFFF = 0 ∧
    ∀ v, dviValue v 0 = (0, 0) ∧ mdiValue v 0 = 0

/-- JSR pushes the address of the next instruction and jumps to the operand's value (R220). On every machine JSR resolves
and reads its operand, decrements SP, writes the live PC at the new SP through the multiplexer and sets PC to the value.
Where no line is claimed and RAM is canonical it completes with SP one lower, the live PC after the decode stored at the
new SP, PC at the operand's value, every other word of RAM and everything else as the decode left it. -/
def Obligations.JsrResult : Prop :=
  ∀ (a : Operand) (s : State),
    let d := s.specialOperand a
    exec (.jsr a) s = (withSpecial a s fun _ av u =>
      (memWrite (u.sp - 1) u.pc { u with sp := u.sp - 1 }).bind fun _ t => .ok () { t with pc := av }).outcome ∧
    (s.Unclaimed → Memory.wf s.ram = true → ∃ t, exec (.jsr a) s = .next t ∧
      t = { d.after with sp := d.after.sp - 1, pc := d.av, ram := t.ram } ∧
      t.rawRead (d.after.sp - 1) = d.after.pc ∧ ∀ x, x ≠ d.after.sp - 1 → t.rawRead x = d.after.rawRead x)

/-- HCF sets HALT; IAQ sets SUSP when its operand is not 0 and clears it when it is (R221, R226). On every machine the
operand is resolved and read first; where no line is claimed it completes so, for every operand form: HCF a sets HALT
and changes nothing else after the decode; IAQ a sets SUSP = 1 if the operand's value is not 0 and 0 if it is. -/
def Obligations.HcfAndIaqResult : Prop :=
  ∀ (a : Operand) (s : State),
    let d := s.specialOperand a
    exec (.hcf a) s = (withSpecial a s fun _ _ u => .ok () { u with halt := true }).outcome ∧
    exec (.iaq a) s = (withSpecial a s fun _ av u => .ok () { u with susp := decide (av ≠ 0) }).outcome ∧
    (s.Unclaimed → exec (.hcf a) s = .next { d.after with halt := true } ∧
      (d.av ≠ 0 → exec (.iaq a) s = .next { d.after with susp := true }) ∧
      (d.av = 0 → exec (.iaq a) s = .next { d.after with susp := false }))

/-- INT drops, queues or overflows: the gate tests IA alone (R222, R263, R264). On every machine INT posts its operand's
value: a post with IA = 0 changes no state; with IA != 0 and room in the queue it appends at the tail, whatever SUSP is;
with IA != 0 and a full queue it raises QueueOverflow and queues nothing. Where no line is claimed INT completes so in
the state its decode left, PC past the instruction: control is not transferred. -/
def Obligations.IntResult : Prop :=
  ∀ (a : Operand) (s : State),
    let d := s.specialOperand a
    exec (.int a) s = (withSpecial a s fun _ av u => post av u).outcome ∧
    (∀ (m : Word) (u : State), (u.ia = 0 → post m u = .ok () u) ∧
      (u.ia ≠ 0 → u.intq.length < u.intQueueCap → post m u = .ok () { u with intq := u.intq ++ [m] }) ∧
      (u.ia ≠ 0 → u.intQueueCap ≤ u.intq.length → post m u = .raised { u with fault := some .queueOverflow })) ∧
    (s.Unclaimed → d.after.pc = s.pc + BitVec.ofNat 16 a.takesWord.toNat ∧
      (s.ia = 0 → exec (.int a) s = .next d.after) ∧
      (s.ia ≠ 0 → s.intq.length < s.intQueueCap → exec (.int a) s = .next { d.after with intq := s.intq ++ [d.av] }) ∧
      (s.ia ≠ 0 → s.intQueueCap ≤ s.intq.length →
        exec (.int a) s = .next { d.after with fault := some .queueOverflow }))

/-- IAG writes IA to its operand; IAS sets IA (R223, R224). On every machine the operand is resolved and read first; where
no line is claimed it completes so, for every operand form: IAG a writes IA to the operand's location (discarded for a
literal), IAS a sets IA to the operand's value, SUSP and INTQ unchanged. -/
def Obligations.IagAndIasResult : Prop :=
  ∀ (a : Operand) (s : State),
    let d := s.specialOperand a
    exec (.iag a) s = (withSpecial a s fun al _ u => writeLoc al u.ia u).outcome ∧
    exec (.ias a) s = (withSpecial a s fun _ av u => .ok () { u with ia := av }).outcome ∧
    (s.Unclaimed → exec (.iag a) s = .next (plainWrite d.loc s.ia d.after) ∧
      exec (.ias a) s = .next { d.after with ia := d.av } ∧ d.after.susp = s.susp ∧ d.after.intq = s.intq)

/-- RFI pops A and then PC and enables delivery (R225). On every machine RFI resolves and reads its operand, reads A at SP
and increments SP, reads PC at SP and increments SP, through the multiplexer, and clears SUSP. Where no line is claimed
it completes with A = the word at SP, PC = the word above it, SP two higher and SUSP = 0, where SP is what the operand's
decode left (RFI POP starts one word higher); nothing else changed after the decode. -/
def Obligations.RfiResult : Prop :=
  ∀ (a : Operand) (s : State),
    let d := s.specialOperand a
    exec (.rfi a) s = (withSpecial a s fun _ _ u =>
      (memRead u.sp u).bind fun v u =>
      (memRead (u.sp + 1) { u with regs := { u.regs with a := v }, sp := u.sp + 1 }).bind fun p u =>
      .ok () { u with pc := p, sp := u.sp + 1, susp := false }).outcome ∧
    (s.Unclaimed → exec (.rfi a) s = .next { d.after with
      regs := { d.after.regs with a := d.after.rawRead d.after.sp }, pc := d.after.rawRead (d.after.sp + 1),
      sp := d.after.sp + 2, susp := false })

/-- HWN, HWQ and HWI: the REFUSED mark, one word of PC, and no later step (44_special.md R227, R228, R229, 60_exceptions.md
R277). exec of each sets its REFUSED mark and changes nothing else, its operand not resolved. On every machine, a step
whose opcode fetch answers such a word changes only the mark after the fetch (no trailing word, no CYC, no tick), and
the step after it is refused by the instruction's name; where no line is claimed the fetch itself moves PC by one word
and captures the shadows. Skipped, such a word is passed like any other and nothing is refused. (That the mark is on a
next state, which the step after it answers by a refusal, is log 2; that it does so even if a device set HALT in the
fetch is the model's choice, log 3.) -/
def Obligations.RefusedInstructions : Prop :=
  (∀ (a : Operand) (s : State), exec (.hwn a) s = .next { s with refused := some .hwn } ∧
      exec (.hwq a) s = .next { s with refused := some .hwq } ∧ exec (.hwi a) s = .next { s with refused := some .hwi }) ∧
    ∀ (a : Operand) (s : State) (w : Word) (r : RefuseReason),
      (decode w = match r with
        | .hwn => .hwn a
        | .hwq => .hwq a
        | .hwi => .hwi a) →
      (s.Executes → ∀ u, fetch { s with pc0 := s.pc, sp0 := s.sp } = .ok w u →
        step s = .next { u with refused := some r } ∧
        step { u with refused := some r } = .refused (.unmodelledInstruction r)) ∧
      (s.Executes → s.Unclaimed → s.rawRead s.pc = w →
        let t := { s with pc0 := s.pc, sp0 := s.sp, pc := s.pc + 1, refused := some r }
        step s = .next t ∧ step t = .refused (.unmodelledInstruction r)) ∧
      (s.stopped = false → s.skip = true → s.Unclaimed → s.rawRead s.pc = w →
        step s = .next { s with pc0 := s.pc, sp0 := s.sp, pc := s.pc + 1 + BitVec.ofNat 16 a.takesWord.toNat, skip := false })

/-- Every reserved opcode resolves its operands and halts the core (R230). On every machine each of the 4 reserved basic and
22 reserved special instructions resolves its operands (trailing words, SP), reads and writes none, and sets
RESERVED_EXEC and HALT. Where no line is claimed each completes so, and with the operands resolved nothing but PC and SP
has changed. With no device, a step that executes one counts it in CYC; one that is skipped does not halt. -/
def Obligations.ReservedOpcodes : Prop :=
  (∀ (b a : Operand) (s : State), ∀ i ∈ [Instr.reservedBasic18 b a, Instr.reservedBasic19 b a, Instr.reservedBasic1C b a, Instr.reservedBasic1D b a],
      exec i s = ((resolve b s).bind fun _ u => (resolve a u).bind fun _ v =>
        .ok () { v with reservedExec := true, halt := true }).outcome ∧
      (s.Unclaimed → ∃ pc sp, exec i s = .next { s with pc := pc, sp := sp, reservedExec := true, halt := true } ∧
        (plainResolve a (plainResolve b s).2).2 = { s with pc := pc, sp := sp })) ∧
    (∀ (a : Operand) (s : State), ∀ i ∈ [Instr.reservedSpecial00 a, Instr.reservedSpecial02 a, Instr.reservedSpecial03 a, Instr.reservedSpecial04 a, Instr.reservedSpecial05 a, Instr.reservedSpecial06 a, Instr.reservedSpecial0D a, Instr.reservedSpecial0E a, Instr.reservedSpecial0F a, Instr.reservedSpecial13 a, Instr.reservedSpecial14 a, Instr.reservedSpecial15 a, Instr.reservedSpecial16 a, Instr.reservedSpecial17 a, Instr.reservedSpecial18 a, Instr.reservedSpecial19 a, Instr.reservedSpecial1A a, Instr.reservedSpecial1B a, Instr.reservedSpecial1C a, Instr.reservedSpecial1D a, Instr.reservedSpecial1E a, Instr.reservedSpecial1F a],
      exec i s = ((resolve a s).bind fun _ v => .ok () { v with reservedExec := true, halt := true }).outcome ∧
      (s.Unclaimed → ∃ pc sp, exec i s = .next { s with pc := pc, sp := sp, reservedExec := true, halt := true } ∧
        (plainResolve a s).2 = { s with pc := pc, sp := sp })) ∧
    ∀ s : State, s.stopped = false → s.NoDevices → (decode (s.rawRead s.pc)).isReserved = true →
      (s.Executes → ∃ pc sp, step s = .next { s with
        pc0 := s.pc, sp0 := s.sp, pc := pc, sp := sp, reservedExec := true, halt := true, cyc := s.cyc + 1 }) ∧
      (s.skip = true → ∃ t, step s = .next t ∧ t.halt = false ∧ t.reservedExec = s.reservedExec)

/-- A post to a full queue stops the model where it is raised (60_exceptions.md R276, R264, 44_special.md R222). Where no
line is claimed, a step that executes INT with IA != 0 and the queue full leaves the decode's effects and FAULT =
QueueOverflow: the queue, CYC and the devices' calls are as before (no tick), and the next step answers that fault (log
2). -/
def Obligations.QueueOverflowStep : Prop :=
  ∀ (a : Operand) (s : State), s.Executes → s.Unclaimed → decode (s.rawRead s.pc) = .int a → s.ia ≠ 0 →
    s.intQueueCap ≤ s.intq.length →
    let d := { s with pc0 := s.pc, sp0 := s.sp, pc := s.pc + 1 }.specialOperand a
    let t := { d.after with fault := some .queueOverflow }
    step s = .next t ∧ t.intq = s.intq ∧ t.cyc = s.cyc ∧ t.calls = s.calls ∧
      step t = .fault (.raised .queueOverflow)

/-- SET PC, POP returns from JSR and leaves SP as it was before the JSR (R231). Where no line is claimed and RAM is
canonical: JSR a completes, and in every later state with the SP it left and the same word on the stack, SET PC, POP
completes with PC just past the JSR and SP as the JSR's operand left it (SP before the JSR, unless the operand is PUSH
or POP). -/
def Obligations.CallAndReturn : Prop :=
  decode 0x6381 = .set .pc .pop ∧
    ∀ (a : Operand) (s : State), s.Unclaimed → Memory.wf s.ram = true → ∃ t, exec (.jsr a) s = .next t ∧
    ∀ u : State, u.Unclaimed → u.sp = t.sp → u.rawRead u.sp = t.rawRead t.sp →
      ∃ v, exec (.set .pc .pop) u = .next v ∧ v.pc = s.pc + BitVec.ofNat 16 a.takesWord.toNat ∧
        v.sp = (s.specialOperand a).after.sp ∧ (a ≠ .push → a ≠ .pop → v.sp = s.sp)

/-- No instruction changes a general register but its destination, I and J of STI and STD, and A of RFI
(41_execution_cycle.md R146, 42_arithmetic.md R160, R179, R180, 43_conditionals.md R200, 44_special.md R223, R225). For
every instruction, in every state, devices or not: if exec answers a next state, each general register is unchanged
unless it is the destination operand, or I or J of STI or STD, or A of RFI. (A fault raised on the way is such a next
state too.) -/
def Obligations.FrameOfGeneralRegisters : Prop :=
  ∀ (i : Instr) (s t : State) (r : Reg), exec i s = .next t → i.destination ≠ some (.reg r) →
    (∀ a, i = .rfi a → r ≠ .a) → (∀ b a, i = .sti b a ∨ i = .std b a → r ≠ .i ∧ r ≠ .j) → t.reg r = s.reg r

/-- Which instruction may change SKIP, IA, SUSP, RESERVED_EXEC, REFUSED; none changes PC0, SP0, LINE, DEVS (10_state.md R24,
R25, R26, R27, R30, R36, R37, R38, 44_special.md R219). For every instruction, in every state, devices or not: exec
leaves PC0, SP0, the queue capacity, LINE and DEVS; SKIP unless it is a conditional; IA unless IAS; SUSP unless RFI or
IAQ; RESERVED_EXEC unless reserved; REFUSED unless HWN, HWQ or HWI. -/
def Obligations.FrameOfControlState : Prop :=
  ∀ (i : Instr) (s t : State), exec i s = .next t →
    t.pc0 = s.pc0 ∧ t.sp0 = s.sp0 ∧ t.intQueueCap = s.intQueueCap ∧ t.lines = s.lines ∧ t.devs = s.devs ∧
    (i.isConditional = false → t.skip = s.skip) ∧ ((∀ a, i ≠ .ias a) → t.ia = s.ia) ∧
    ((∀ a, i ≠ .rfi a) → (∀ a, i ≠ .iaq a) → t.susp = s.susp) ∧
    (i.isReserved = false → t.reservedExec = s.reservedExec) ∧ (i.isRefused = false → t.refused = s.refused)

/-- Where no line is claimed, which instruction may change INTQ, FAULT, HALT; none changes CYC or calls a device
(10_state.md R28, R29, R31, R32, 60_exceptions.md R264, R276). For every instruction, where no line is claimed: exec
leaves CYC and the log of device calls; INTQ and FAULT unless it is INT; HALT unless it is HCF or reserved. -/
def Obligations.FrameOfQueueHaltAndCycles : Prop :=
  ∀ (i : Instr) (s t : State), s.Unclaimed → exec i s = .next t →
    t.cyc = s.cyc ∧ t.calls = s.calls ∧ ((∀ a, i ≠ .int a) → t.intq = s.intq ∧ t.fault = s.fault) ∧
    ((∀ a, i ≠ .hcf a) → i.isReserved = false → t.halt = s.halt)

/-- EX is written by eleven instructions and otherwise only as a destination; EX is an operand like any other (10_state.md
R23, 40_operand_resolver.md R119). For every instruction, in every state, devices or not: exec leaves EX unless the
instruction is ADD, SUB, MUL, MLI, DIV, DVI, SHR, ASR, SHL, ADX or SBX, or its destination operand is EX. Code 0x1D of
either field is the EX operand, which reads EX and whose write sets it. -/
def Obligations.FrameOfEx : Prop :=
  (∀ (i : Instr) (s t : State), exec i s = .next t → i.setsEx = false → i.destination ≠ some .ex → t.ex = s.ex) ∧
    decodeB 0x1D = .ex ∧ decodeA 0x1D = .ex ∧
    (∀ b a, ∀ i ∈ [Instr.add b a, Instr.sub b a, Instr.mul b a, Instr.mli b a, Instr.div b a, Instr.dvi b a,
      Instr.shr b a, Instr.asr b a, Instr.shl b a, Instr.adx b a, Instr.sbx b a], i.setsEx = true) ∧
    ∀ (s : State) (v : Word), resolve .ex s = .ok .ex s ∧ readLoc .ex s = .ok s.ex s ∧
      writeLoc .ex v s = .ok () { s with ex := v }

/-- SP changes only by a PUSH or POP operand, SP as destination, JSR and RFI (10_state.md R22). For every instruction, in
every state, devices or not: exec leaves SP unless PUSH or POP is one of its operands, SP is its destination, or it is
JSR or RFI. -/
def Obligations.FrameOfSp : Prop :=
  ∀ (i : Instr) (s t : State), exec i s = .next t → .push ∉ i.operands → .pop ∉ i.operands →
    i.destination ≠ some .sp → i.isJsrOrRfi = false → t.sp = s.sp

/-- No instruction changes a word of RAM but the one it stores to (20_memory.md R53, 40_operand_resolver.md R126,
43_conditionals.md R200, 44_special.md R220). For every instruction, where no line is claimed: if exec answers a next
state, every word of RAM reads as before except the one at the address the instruction stores to (b's location of a
value-producing instruction, a's of IAG, JSR's stack slot); an instruction that stores nothing leaves all of RAM. -/
def Obligations.FrameOfMemory : Prop :=
  ∀ (i : Instr) (s t : State) (x : Word), s.Unclaimed → exec i s = .next t → storeAddress i s ≠ some x →
    t.rawRead x = s.rawRead x

/-- After an executed instruction that does not write PC, PC is PC0 plus the length (41_execution_cycle.md R152). For every
step that executes an instruction whose opcode word lies in an unclaimed line (devices may answer every other access)
and ends without a fault or refusal: unless the destination is PC or it is JSR or RFI, PC = u16(PC0 + length(w)), and
PC0 is where PC was. With PC as destination of SET, or JSR, or RFI, PC is the value written (no line claimed). -/
def Obligations.PcAfterAnInstruction : Prop :=
  (∀ s t : State, s.Executes → s.claimant s.pc = none → step s = .next t → t.marked = false →
      (decode (s.rawRead s.pc)).destination ≠ some .pc → (decode (s.rawRead s.pc)).isJsrOrRfi = false →
      t.pc0 = s.pc ∧ t.pc = BitVec.ofNat 16 (t.pc0.toNat + wordLength (s.rawRead s.pc))) ∧
    ∀ (i : Instr) (a : Operand) (s t : State), s.Unclaimed → exec i s = .next t →
      (∀ b, i.destination = some .pc → i.format = .basic 0x01 b a → t.pc = (s.basicOperands b a).av) ∧
      (i = .iag .pc → t.pc = s.ia) ∧ (i = .jsr a → t.pc = (s.specialOperand a).av) ∧
      (i = .rfi a → t.pc = (s.specialOperand a).after.rawRead ((s.specialOperand a).after.sp + 1))

/-- A step is possible exactly when HALT, FAULT and REFUSED are all clear, and its kind is chosen in a fixed order (R140,
R267). For every state: step answers a next state if and only if HALT = 0 and neither mark is set; then it is a skip
step when SKIP = 1, else a dispatch when one is eligible, else an executed instruction. -/
def Obligations.StoppedCoreTakesNoStep : Prop :=
  ∀ s : State,
    ((∃ t, step s = .next t) ↔ s.halt = false ∧ s.fault = none ∧ s.refused = none) ∧
    (s.halt = false → s.fault = none → s.refused = none →
      (s.skip = true → step s = (skipStep s).outcome) ∧
      (s.skip = false → s.intq ≠ [] → s.ia ≠ 0 → s.susp = false → step s = (dispatch s).outcome) ∧
      (s.skip = false → (s.intq = [] ∨ s.ia = 0 ∨ s.susp = true) → step s = execStep s))

/-- A step that executes runs the instruction the word at PC decodes to, then counts and ticks (41_execution_cycle.md R141,
R142, R147, R148, 60_exceptions.md R276). If the core executes: where a device's fault ends the opcode fetch, the step
ends in the state the fetch left; otherwise exec of the decoded instruction answers a next state, which is the step's if
it carries a mark, and else CYC + 1 and the ticks follow (log 2). If the opcode word, fetched through the multiplexer
with PC0 and SP0 captured, is the encoding of a well-formed i, the step is exec of i in the state after the fetch, and
then, unless a fault or refusal was raised, CYC + 1 and every device ticked with the word; with no line claimed that
state is s with PC0, SP0 captured and PC one higher, and with no device CYC + 1 is all that follows. -/
def Obligations.StepRunsTheDecodedInstruction : Prop :=
  ∀ s : State, s.Executes →
    ((∃ u, fetch { s with pc0 := s.pc, sp0 := s.sp } = .raised u ∧ step s = .next u) ∨
      ∃ w u t, fetch { s with pc0 := s.pc, sp0 := s.sp } = .ok w u ∧ exec (decode w) u = .next t ∧
        step s = if t.marked = true then .next t else (tickAll w t.devs { t with cyc := t.cyc + 1 }).outcome) ∧
    ∀ i : Instr, i.wellFormed = true →
    ((∀ u, fetch { s with pc0 := s.pc, sp0 := s.sp } = .ok (encode i) u → ∀ t, exec i u = .next t →
      (t.fault.isSome = true ∨ t.refused.isSome = true → step s = .next t) ∧
      (t.fault = none → t.refused = none → step s = (tickAll (encode i) t.devs { t with cyc := t.cyc + 1 }).outcome)) ∧
    (s.Unclaimed → s.rawRead s.pc = encode i →
      fetch { s with pc0 := s.pc, sp0 := s.sp } = .ok (encode i) { s with pc0 := s.pc, sp0 := s.sp, pc := s.pc + 1 } ∧
      ∀ t, exec i { s with pc0 := s.pc, sp0 := s.sp, pc := s.pc + 1 } = .next t → t.marked = false → t.devs = [] →
        step s = .next { t with cyc := t.cyc + 1 }))

/-- A skip step passes the whole instruction, clears SKIP and does nothing else (R143). Where no line is claimed, with SKIP
= 1, whatever word is at PC and whether or not a dispatch waits: PC0 and SP0 are captured, PC = u16(PC + length of the
word), SKIP = 0, and nothing else changes. On every machine its only access is the read of the opcode word through the
multiplexer, after which it changes nothing but PC and SKIP; if a device's fault ends that read, the step ends there. -/
def Obligations.SkipStepOnlyMovesPc : Prop :=
  ∀ s : State, s.stopped = false → s.skip = true →
    (s.Unclaimed → step s = .next { s with
      pc0 := s.pc, sp0 := s.sp, pc := s.pc + BitVec.ofNat 16 (wordLength (s.rawRead s.pc)), skip := false }) ∧
    step s = ((memRead s.pc { s with pc0 := s.pc, sp0 := s.sp }).bind fun w t =>
      .ok () { t with pc := s.pc + BitVec.ofNat 16 (wordLength w), skip := false }).outcome

/-- A dispatch pushes PC and A, loads A with the head message, enters IA and suspends delivery (R268). For a core not
stopped or skipping with a message queued, IA != 0 and SUSP = 0, on every machine: the step removes the head of INTQ,
writes PC at SP - 1 and then A at SP - 2 through the multiplexer, and sets A, PC and SUSP. Where no line is claimed and
RAM is canonical, the step removes the head of INTQ, stores PC at SP - 1 and A at SP - 2, sets SP two lower, A = the
message, PC = IA, SUSP = 1; every other word and every other piece of state (CYC, EX, PC0, SP0, the devices' calls) is
as before. -/
def Obligations.DispatchStep : Prop :=
  ∀ (s : State) (m : Word) (rest : List Word), s.stopped = false → s.skip = false → s.intq = m :: rest → s.ia ≠ 0 →
    s.susp = false →
    step s = ((memWrite (s.sp - 1) s.pc { s with intq := rest, sp := s.sp - 1 }).bind fun _ u =>
      (memWrite (u.sp - 1) u.regs.a { u with sp := u.sp - 1 }).bind fun _ v =>
      .ok () { v with regs := { v.regs with a := m }, pc := v.ia, susp := true }).outcome ∧
    (s.Unclaimed → Memory.wf s.ram = true → ∃ t, step s = .next t ∧
      t = { s with
        regs := { s.regs with a := m }, pc := s.ia, sp := s.sp - 2, susp := true, intq := rest, ram := t.ram } ∧
      t.rawRead (s.sp - 1) = s.pc ∧ t.rawRead (s.sp - 2) = s.regs.a ∧
      ∀ x, x ≠ s.sp - 1 → x ≠ s.sp - 2 → t.rawRead x = s.rawRead x)

/-- CYC counts executed instructions; skip and dispatch steps add 0; no step lowers it (10_state.md R32,
41_execution_cycle.md R147, 70_reset_and_hazards.md R309). On every machine no step lowers CYC. With no device, a step
adds exactly 1 when it executes an instruction and raises nothing, and 0 when it is a skip, a dispatch, or ends in a
fault or refusal. -/
def Obligations.CyclesCountExecutedInstructions : Prop :=
  ∀ s t : State, step s = .next t → s.cyc ≤ t.cyc ∧
    (s.NoDevices → t.cyc = s.cyc + (if s.skip = false ∧ s.dispatchEligible = false ∧ t.marked = false then 1 else 0))

/-- Each executed instruction ticks every device once, in DEVS order, with its opcode word; other steps tick none (R283). On
every machine: after a step the onTick calls made so far are those before and one per device of a first part of DEVS, in
that order, with one opcode word. If the step executes an instruction and raises nothing, that part is all of DEVS and
the word is the opcode word fetched; a skip step, a dispatch step, a refused step and one that a fault stops in its
fetch or its instruction tick no device. -/
def Obligations.TicksInAttachmentOrder : Prop :=
  ∀ s t : State, step s = .next t →
    (∃ w n, t.ticks = s.ticks ++ (s.devs.take n).map (fun d => DeviceCall.onTick d w)) ∧
    (s.Executes → t.marked = false → ∃ w u, fetch { s with pc0 := s.pc, sp0 := s.sp } = .ok w u ∧
      t.ticks = s.ticks ++ s.devs.map (fun d => DeviceCall.onTick d w)) ∧
    (s.skip = true ∨ s.dispatchEligible = true ∨ t.refused.isSome = true → t.ticks = s.ticks) ∧
    ((∃ u, fetch { s with pc0 := s.pc, sp0 := s.sp } = .raised u) ∨
      (∃ w u v, fetch { s with pc0 := s.pc, sp0 := s.sp } = .ok w u ∧ exec (decode w) u = .next v ∧ v.marked = true) →
      t.ticks = s.ticks)

/-- With no device, a step halts the core exactly when it executes HCF or a reserved opcode (10_state.md R29, R30,
44_special.md R221, R230). With no device attached: after a step HALT = 1 if and only if the step executed an
instruction and that is HCF or a reserved one; RESERVED_EXEC is set by a step if and only if it executed a reserved one. -/
def Obligations.OnlyHcfAndReservedOpcodesHalt : Prop :=
  ∀ s t : State, s.NoDevices → step s = .next t →
    (t.halt = true ↔ s.Executes ∧
      ((∃ a, decode (s.rawRead s.pc) = .hcf a) ∨ (decode (s.rawRead s.pc)).isReserved = true)) ∧
    (s.reservedExec = false →
      (t.reservedExec = true ↔ s.Executes ∧ (decode (s.rawRead s.pc)).isReserved = true))

/-- Every step keeps the machine's invariant, whatever the devices do (20_memory.md R50, R60, 10_state.md R28, R36,
44_special.md R230, 60_exceptions.md R264, R276). From every state that meets Inv (RAM in canonical form, the queue
within its capacity, RESERVED_EXEC only with HALT, FAULT only with a full queue, LINE and DEVS in agreement) every step
that answers a next state leads to one that meets it. (RAM's canonical form is the model's, log 1.) -/
def Obligations.StepKeepsInv : Prop :=
  ∀ s t : State, s.Inv → step s = .next t → t.Inv

/-- The invariant holds after reset (10_state.md R40). State.reset meets Inv, and so does the reset of any state whose LINE
and DEVS agree. (That State.reset has no device is the model's choice, log 7.) -/
def Obligations.InvAtReset : Prop :=
  State.reset.Inv ∧ ∀ s : State, s.LinesConsistent → (hostReset s).Inv

/-- Every host action between steps keeps the invariant (20_memory.md R60, R61, R62, 60_exceptions.md R274,
70_reset_and_hazards.md R300, R303, R310). From every state that meets Inv: attach (with or without a line), detach,
poke, image load, reset and a device's halt request between steps lead to states that meet it. (That a device is
attached at most once is the model's choice, log 8.) -/
def Obligations.HostActionsKeepInv : Prop :=
  ∀ s : State, s.Inv →
    (∀ d t, hostAttach d s = .done t → t.Inv) ∧ (∀ d n t, hostAttachLine d n s = .done t → t.Inv) ∧
    (∀ d, (hostDetach d s).Inv) ∧ (∀ x v, (hostPoke x v s).Inv) ∧
    (∀ image t, hostLoad image s = .done t → t.Inv) ∧ (hostReset s).Inv ∧ (deviceHaltBetweenSteps s).Inv

/-- A dispatch and the RFI that returns from it restore PC, A and SP (R272). Where no line is claimed and RAM is canonical:
a dispatch step completes, and in every later state with the SP it left and its two stacked words unchanged, RFI with
any operand form but POP (and PUSH, which a special operand cannot be) completes with SP, A and PC as before the
dispatch, and SUSP = 0. -/
def Obligations.InterruptRoundTrip : Prop :=
  ∀ (s : State) (m : Word) (rest : List Word), s.stopped = false → s.skip = false → s.intq = m :: rest → s.ia ≠ 0 →
    s.susp = false → s.Unclaimed → Memory.wf s.ram = true → ∃ t, step s = .next t ∧
      ∀ (u : State) (a : Operand), u.Unclaimed → u.sp = t.sp → u.rawRead u.sp = t.rawRead t.sp →
        u.rawRead (u.sp + 1) = t.rawRead (t.sp + 1) → a ≠ .pop → a ≠ .push →
        ∃ v, exec (.rfi a) u = .next v ∧ v.sp = s.sp ∧ v.reg .a = s.reg .a ∧ v.pc = s.pc ∧ v.susp = false

/-- While IA = 0 no request of any kind is queued, dispatched or faulted (60_exceptions.md R263, R266, R267, R275). On every
machine, whatever the devices do: a step that starts with IA = 0 and ends with IA = 0 raises no fault and leaves INTQ
exactly as it was (requests dropped, messages waiting kept); it is not a dispatch. -/
def Obligations.DisabledInterruptsAreInert : Prop :=
  ∀ s t : State, s.ia = 0 → step s = .next t → t.ia = 0 →
    t.fault = none ∧ t.intq = s.intq ∧ s.dispatchEligible = false

/-- Each access reaches the device that claims its line, with the offset, and no other; an unclaimed one is RAM's (R54, R55,
R56, R63). For every address x, with line n = x div 4096 and offset x mod 4096: if a device claims line n, a read or
write of x is one call of that device, with that offset (a write with the new value and the RAM word), and of no other
device, and the read gives what that call gives, in the state it leaves; if none does, no device is called, the read
gives the RAM word and changes nothing, and the write changes that word of RAM alone. -/
def Obligations.LineIsolation : Prop :=
  ∀ (s : State) (x v : Word) (n : Fin 16), n.val = x.toNat / 4096 →
    (∀ d, s.lines[n] = some d →
      memRead x s = callDevice (.onRead d (BitVec.ofNat 12 (x.toNat % 4096))) s ∧
      memWrite x v s = ((callDevice (.onWrite d (BitVec.ofNat 12 (x.toNat % 4096)) v (s.rawRead x)) s).bind fun _ t =>
        .ok () t) ∧
      (memRead x s).state.calls = s.calls ++ [.onRead d (BitVec.ofNat 12 (x.toNat % 4096))] ∧
      (memWrite x v s).state.calls = s.calls ++ [.onWrite d (BitVec.ofNat 12 (x.toNat % 4096)) v (s.rawRead x)]) ∧
    (s.lines[n] = none → memRead x s = .ok (s.rawRead x) s ∧
      ∃ t, memWrite x v s = .ok () t ∧ t = { s with ram := t.ram } ∧ ∀ y, y ≠ x → t.rawRead y = s.rawRead y)

/-- SET reads b, then a, then writes b: devices see the calls in that order (20_memory.md R56, R58, R65,
41_execution_cycle.md R145). On a machine where devices claim the lines of both memory operands: if SET [r], [q] ends
without a fault, the devices were called exactly three times, onRead of b's device, onRead of a's device, onWrite of b's
device, with the offsets of the two addresses (SET reads its destination too); the word written is the answer of a's
device, and the old value is the RAM word there after both reads. (A device's answer is the free value of log 4.) -/
def Obligations.DeviceCallsInOperandOrder : Prop :=
  ∀ (r q : Reg) (d e : DeviceId) (s t : State), s.claimant (s.reg r) = some d → s.claimant (s.reg q) = some e →
    exec (.set (.regInd r) (.regInd q)) s = .next t → t.fault = none →
    ∃ bv av u v, memRead (s.reg r) s = .ok bv u ∧ memRead (s.reg q) u = .ok av v ∧
      av = (Config.deviceReply (.onRead e (offsetOf (s.reg q))) u.calls u.ram u.cyc).value ∧
      t.calls = s.calls ++ [.onRead d (offsetOf (s.reg r)), .onRead e (offsetOf (s.reg q)),
        .onWrite d (offsetOf (s.reg r)) av (v.rawRead (s.reg r))]

/-- A RAM write is read back and changes no other word (20_memory.md R53, R64, 70_reset_and_hazards.md R310). In every state
with canonical RAM: after RawWrite of v at x, or a host poke, x reads v, every other address reads as before, RAM is
canonical, and nothing but RAM has changed; the same of a core write in an unclaimed line. -/
def Obligations.RamReadAfterWrite : Prop :=
  ∀ (s : State) (x v : Word), Memory.wf s.ram = true →
    (hostPeek x (hostPoke x v s) = v ∧ (∀ y, y ≠ x → hostPeek y (hostPoke x v s) = hostPeek y s) ∧
      Memory.wf (hostPoke x v s).ram = true ∧ hostPoke x v s = { s with ram := (hostPoke x v s).ram }) ∧
    (s.claimant x = none → memWrite x v s = .ok () (hostPoke x v s))

/-- Reset gives every piece of state its reset value, keeps LINE and DEVS, and is idempotent (R40, R300, R301). For every
state: after reset all registers, PC, SP, EX, PC0, SP0, IA, CYC are 0, SUSP, SKIP, HALT, RESERVED_EXEC 0, INTQ empty,
the marks clear, every word of RAM 0, the constant block as fixed (-1, 0 to 30), LINE and DEVS as before, no device
called; a second reset changes nothing; State.reset is such a state. -/
def Obligations.ResetValues : Prop :=
  (∀ s : State,
      let t := hostReset s
      (∀ r, t.reg r = 0) ∧ t.pc = 0 ∧ t.sp = 0 ∧ t.ex = 0 ∧ t.pc0 = 0 ∧ t.sp0 = 0 ∧ t.ia = 0 ∧ t.susp = false ∧
      t.skip = false ∧ t.intq = [] ∧ t.halt = false ∧ t.reservedExec = false ∧ t.fault = none ∧ t.refused = none ∧
      t.cyc = 0 ∧ (∀ x, t.rawRead x = 0) ∧ t.lines = s.lines ∧ t.devs = s.devs ∧ t.calls = s.calls ∧ hostReset t = t) ∧
    hostReset State.reset = State.reset ∧ Config.constantBlock.length = 32 ∧
    ∀ n : Nat, n < 32 → Config.constantBlock[n]? = some (BitVec.ofInt 16 ((n : Int) - 1))

/-- From reset with nothing loaded, the first step executes the reserved word 0x0000 and halts (70_reset_and_hazards.md
R302, 44_special.md R230, 95_test_vectors.md 2.8). step State.reset answers the state with RESERVED_EXEC = 1, HALT = 1,
PC = 1, CYC = 1 and all else as after reset, and the next step answers that the core is halted. (No device is attached
in State.reset, log 7; a halted core's step answers a fault, log 3.) -/
def Obligations.FirstStepAfterReset : Prop :=
  step State.reset = .next { State.reset with reservedExec := true, halt := true, pc := 1, cyc := 1 } ∧
    step { State.reset with reservedExec := true, halt := true, pc := 1, cyc := 1 } = .fault .halted

/-- Image load stores word i at address i, calls no device, and rejects a longer image (70_reset_and_hazards.md R303, R310).
For every image and state with canonical RAM: of at most 65,536 words, word i is then at address i, words beyond the
image are as before, nothing but RAM has changed; a longer image is rejected. -/
def Obligations.ImageLoad : Prop :=
  ∀ (image : List Word) (s : State), Memory.wf s.ram = true →
    (image.length ≤ 65536 → ∃ t, hostLoad image s = .done t ∧ t = { s with ram := t.ram } ∧
      (∀ (n : Nat) (h : n < image.length), t.rawRead (BitVec.ofNat 16 n) = image[n]) ∧
      ∀ x : Word, image.length ≤ x.toNat → t.rawRead x = s.rawRead x) ∧
    (65536 < image.length → hostLoad image s = .failed .imageTooLong)

/-- Attach claims a free line and fails on a claimed one; detach frees it, keeps the others in order and is idempotent
(20_memory.md R60, R61, R62). Attach of a device to a claimed line fails at once. Attach of a device not yet attached to
a free line puts it at the end of DEVS and in that line alone. After detach the device is in no line and not in DEVS,
the other devices keep their lines and, in DEVS, their order, which is the tick order, and a second detach changes
nothing. (A device already attached is rejected, the model's choice, log 8.) -/
def Obligations.AttachAndDetach : Prop :=
  ∀ (d : DeviceId) (n : BitVec 4) (s : State),
    (s.lines[n.toFin] ≠ none → hostAttachLine d n s = .failed .lineClaimed) ∧
    (s.lines[n.toFin] = none → d ∉ s.devs → ∃ t, hostAttachLine d n s = .done t ∧
      t = { s with devs := s.devs ++ [d], lines := t.lines } ∧
      ∀ m : Fin 16, t.lines[m] = if m = n.toFin then some d else s.lines[m]) ∧
    (d ∉ s.devs → hostAttach d s = .done { s with devs := s.devs ++ [d] }) ∧
    (hostDetach d s = { s with devs := (hostDetach d s).devs, lines := (hostDetach d s).lines } ∧
      (hostDetach d s).devs = s.devs.filter (fun e => e ≠ d) ∧ d ∉ (hostDetach d s).devs ∧ (∀ e, e ≠ d → (e ∈ (hostDetach d s).devs ↔ e ∈ s.devs)) ∧
      (∀ m : Fin 16, (hostDetach d s).lines[m] = if s.lines[m] = some d then none else s.lines[m]) ∧
      hostDetach d (hostDetach d s) = hostDetach d s)

/-- A call to a device serves the requests of its answer in order and gives its word, and can do nothing else (20_memory.md
R58, 60_exceptions.md R274, R276, R282, R284, R285). A post passes the gate and the queue as INT does; a halt request
sets HALT when it is made and the rest of the callback goes on; AddCycles adds to CYC alone; RawWrite stores one word;
the services of a callback run in order. A call logs itself, serves the requests of the device's answer in that order
and then gives the answer's word; a fault raised by a request ends it. A read of a claimed line is such a call of
onRead: its word is the device's own answer. (The answer is the free value of log 4.) Whatever the device answers, a
call to it changes nothing of the core but INTQ, HALT, FAULT, CYC, RAM and the log of calls: HALT is never cleared and
CYC never lowered. A halt request between steps sets HALT. -/
def Obligations.DeviceServices : Prop :=
  (∀ (m x v : Word) (n : Nat) (q : DeviceRequest) (qs : List DeviceRequest) (s : State),
      serveRequest (.post m) s = post m s ∧ serveRequest .requestHalt s = .ok () { s with halt := true } ∧
      serveRequest (.addCycles n) s = .ok () { s with cyc := s.cyc + n } ∧
      serveRequest (.rawWrite x v) s = .ok () (hostPoke x v s) ∧
      serveRequests [] s = .ok () s ∧ serveRequests (q :: qs) s = (serveRequest q s).bind (fun _ t => serveRequests qs t)) ∧
    (∀ (c : DeviceCall) (s : State),
      let reply := Config.deviceReply c s.calls s.ram s.cyc
      let t := (callDevice c s).state
      callDevice c s = ((serveRequests reply.requests { s with calls := s.calls ++ [c] }).bind fun _ u => .ok reply.value u) ∧
      t = { s with intq := t.intq, halt := t.halt, fault := t.fault, cyc := t.cyc, ram := t.ram, calls := t.calls } ∧
      t.calls = s.calls ++ [c] ∧ s.cyc ≤ t.cyc ∧ (s.halt = true → t.halt = true) ∧ (∃ new, t.intq = s.intq ++ new)) ∧
    (∀ (x : Word) (d : DeviceId) (s : State), s.claimant x = some d →
      let call := DeviceCall.onRead d (offsetOf x)
      let reply := Config.deviceReply call s.calls s.ram s.cyc
      memRead x s = (serveRequests reply.requests { s with calls := s.calls ++ [call] }).bind fun _ u => .ok reply.value u) ∧
    ∀ s : State, deviceHaltBetweenSteps s = { s with halt := true }

/-- single-step, run-N-steps and run-until-halt in steps, and what they leave (70_reset_and_hazards.md R307, R311). A core
is stopped when HALT = 1 or FAULT or REFUSED is set. A stopped core is left as it is by every run command; otherwise
single-step is one step and run-N-steps does one and goes on with n - 1. Running m and then n steps is running m + n.
run-until-halt, where it ends, ends in exactly one state, which is stopped; on SET PC, PC, with no device and no
dispatch due, it never ends. (That run-until-halt is a relation is log 10.) -/
def Obligations.RunCommands : Prop :=
  (∀ s : State, (s.stopped = true ↔ s.halt = true ∨ s.fault.isSome = true ∨ s.refused.isSome = true) ∧
      (s.stopped = true → singleStep s = s ∧ (∀ n, runSteps n s = s) ∧ RunsUntilHalt s s) ∧
      (s.stopped = false → step s = .next (singleStep s) ∧ ∀ n, runSteps (n + 1) s = runSteps n (singleStep s))) ∧
    (∀ (m n : Nat) (s : State), runSteps (m + n) s = runSteps n (runSteps m s)) ∧
    (∀ s t u : State, RunsUntilHalt s t → t.stopped = true ∧ (RunsUntilHalt s u → t = u)) ∧
    ∀ s : State, s.Executes → s.NoDevices → s.rawRead s.pc = 0x7381 → ∀ t, ¬RunsUntilHalt s t
end

