-- ==== Sys2Proof/Laws/Decode.lean ====
section
/-! SUPPORT. The fields of an encoded word, and the operand codes read back. -/

namespace Sys2Proof

/-! ## Fields of a word put together from its fields (R95) -/

theorem opField_word (a : BitVec 6) (b o : BitVec 5) : opField (a ++ b ++ o : Word) = o := by
  apply BitVec.eq_of_getLsbD_eq
  intro i h
  simp only [opField, BitVec.getLsbD_extractLsb', BitVec.getLsbD_append, h]
  simp only [decide_true, Bool.true_and, Nat.zero_add, if_pos h]

theorem bField_word (a : BitVec 6) (b o : BitVec 5) : bField (a ++ b ++ o : Word) = b := by
  apply BitVec.eq_of_getLsbD_eq
  intro i h
  simp only [bField, BitVec.getLsbD_extractLsb', BitVec.getLsbD_append, h]
  simp [h]

theorem aField_word (a : BitVec 6) (b o : BitVec 5) : aField (a ++ b ++ o : Word) = a := by
  apply BitVec.eq_of_getLsbD_eq
  intro i h
  simp only [aField, BitVec.getLsbD_extractLsb', BitVec.getLsbD_append, h]
  simp [show ¬ (10 + i < 5) by omega, show 10 + i - 5 - 5 = i by omega, show ¬ (10 + i - 5 < 5) by omega]

/-- A word is its three fields. -/
theorem word_of_fields (w : Word) : (aField w ++ bField w ++ opField w : Word) = w := by
  apply BitVec.eq_of_getLsbD_eq
  intro i h
  simp only [aField, bField, opField, BitVec.getLsbD_append, BitVec.getLsbD_extractLsb']
  by_cases h1 : i < 5
  · simp [h1]
  · by_cases h2 : i - 5 < 5
    · simp [h1, h2, show 5 + (i - 5) = i by omega]
    · simp [h1, h2, show i - 5 - 5 < 6 by omega, show 10 + (i - 5 - 5) = i by omega]

/-! ## Operand codes -/

/-- Field b's code of a class that may stand there is read back as that class. -/
theorem decodeB_code (o : Operand) (h : o.okIn .b = true) : decodeB o.code5 = o := by
  cases o with
  | reg r | regInd r | regOff r => cases r <;> decide
  | pop => cases h
  | short v => simp [Operand.okIn] at h
  | _ => decide

/-- A packed immediate's code gives its value back (R84). -/
theorem decodeA_short (v : Word) (c : BitVec 6) (e : c.toNat = (v + 1#16).toNat + 0x20) :
    decodeA c = .short v := by
  have hc : 0x20#6 ≤ c := by rw [BitVec.le_def, e]; simp
  rw [decodeA, if_pos hc]
  congr 1
  apply BitVec.eq_of_toNat_eq
  have := v.isLt
  simp only [BitVec.truncate_eq_setWidth, BitVec.toNat_sub, BitVec.toNat_setWidth, e, BitVec.toNat_add,
    BitVec.toNat_ofNat]
  have := c.isLt
  omega

theorem decodeA_code_short (v : Word) (h : Operand.okIn .a (.short v) = true) :
    decodeA (Operand.short v).code6 = .short v := by
  simp only [Operand.okIn, inShortWindow, decide_eq_true_eq, Bool.and_eq_true] at h
  replace h := h.2
  rw [show (1 : Word) = 1#16 from rfl] at h
  have e : ((v + 0x21#16).extractLsb' 0 6).toNat = (v + 1#16).toNat + 0x20 := by
    have hv := v.isLt
    rw [BitVec.toNat_add] at h
    rw [BitVec.extractLsb'_toNat, BitVec.toNat_add, BitVec.toNat_add, Nat.shiftRight_zero]
    simp only [BitVec.toNat_ofNat] at h ⊢
    omega
  rw [show (Operand.short v).code6 = (v + 0x21#16).extractLsb' 0 6 from rfl]
  exact decodeA_short v _ e

/-- Field a's code of a class that may stand there is read back as that class. -/
theorem decodeA_code (o : Operand) (h : o.okIn .a = true) : decodeA o.code6 = o := by
  cases o with
  | reg r | regInd r | regOff r => cases r <;> decide
  | push => cases h
  | short v => exact decodeA_code_short v h
  | _ => decide

/-- A code of field b that is read is written back. -/
theorem code5_decodeB (c : BitVec 5) : (decodeB c).code5 = c ∧ (decodeB c).okIn .b = true := by
  revert c; decide +kernel

/-- A code of field a that is read is written back. -/
theorem code6_decodeA (c : BitVec 6) : (decodeA c).code6 = c ∧ (decodeA c).okIn .a = true := by
  revert c; decide +kernel

/-- The codes that take a trailing word are those of the classes that do (R83, R85). -/
theorem needsWord_b (c : BitVec 5) : needsWord (c.zeroExtend 6) = (decodeB c).takesWord := by
  revert c; decide +kernel

theorem needsWord_a (c : BitVec 6) : needsWord c = (decodeA c).takesWord := by
  revert c; decide +kernel

/-! ## The opcode maps (R88, R89) -/

/-- Every basic opcode but 0 names one instruction, with that opcode and those operands. -/
theorem basicInstr_format (o : BitVec 5) (b a : Operand) (h : o ≠ 0) :
    ∃ i, basicInstr o b a = some i ∧ i.format = .basic o b a := by
  obtain ⟨⟨n, hn⟩⟩ := o
  interval_cases n
  · exact absurd rfl h
  all_goals exact ⟨_, rfl, rfl⟩

/-- Every special opcode names one instruction, with that opcode and that operand. -/
theorem specialInstr_format (s : BitVec 5) (a : Operand) : (specialInstr s a).format = .special s a := by
  obtain ⟨⟨n, hn⟩⟩ := s
  interval_cases n <;> rfl

/-- The instruction of a basic format is the one the map names. -/
theorem basicInstr_of_format {i : Instr} {o : BitVec 5} {b a : Operand} (h : i.format = .basic o b a) :
    basicInstr o b a = some i := by
  cases i <;> cases h <;> rfl

/-- The instruction of a special format is the one the map names. -/
theorem specialInstr_of_format {i : Instr} {s : BitVec 5} {a : Operand} (h : i.format = .special s a) :
    specialInstr s a = i := by
  cases i <;> cases h <;> rfl

/-! ## The length of a written word -/

theorem wordLength_basic (a b : Operand) (o : BitVec 5) (h : o ≠ 0) (ha : a.okIn .a = true) (hb : b.okIn .b = true) :
    wordLength (a.code6 ++ b.code5 ++ o : Word) = 1 + (b.takesWord.toNat + a.takesWord.toNat) := by
  have eb : needsWord (b.code5.zeroExtend 6) = b.takesWord := by rw [needsWord_b, decodeB_code b hb]
  have ea : needsWord a.code6 = a.takesWord := by rw [needsWord_a, decodeA_code a ha]
  rw [wordLength, opField_word, bField_word, aField_word, eb, ea, if_neg h, Nat.add_assoc]

theorem wordLength_special (a : Operand) (s : BitVec 5) (ha : a.okIn .a = true) :
    wordLength (a.code6 ++ s ++ 0#5 : Word) = 1 + a.takesWord.toNat := by
  have ea : needsWord a.code6 = a.takesWord := by rw [needsWord_a, decodeA_code a ha]
  rw [wordLength, opField_word, aField_word, ea, if_pos (show (0#5) = 0 from rfl)]

end Sys2Proof
end

