-- ==== Sys2Proof/Laws/Memory.lean ====
section
/-! SUPPORT. RAM as canonical cells: a read after a write, and every write keeps the canonical form. -/

namespace Sys2Proof.Machine
open Sys2Proof

theorem read_cons (a : Nat) (v : Word) (m : Memory) (x : Nat) :
    Memory.read ((a, v) :: m) x = if a = x then v else Memory.read m x := rfl

/-- A write leaves every other address as it was, canonical or not. -/
theorem read_write_other (m : Memory) {a x : Nat} (v : Word) (h : x ≠ a) :
    Memory.read (Memory.write m a v) x = Memory.read m x := by
  have hc : ∀ m, Memory.read (Memory.cons a v m) x = Memory.read m x := by
    intro m
    unfold Memory.cons
    split
    · rfl
    · rw [read_cons, if_neg (Ne.symm h)]
  induction m with
  | nil => exact hc []
  | cons c m ih =>
    obtain ⟨k, w⟩ := c
    simp only [Memory.write]
    split
    · exact hc _
    · split
      next h2 => rw [hc, read_cons, if_neg (by omega)]
      next => rw [read_cons, read_cons, ih]

/-- Below its first cell a canonical list reads as unlisted. -/
theorem read_below {lo : Nat} {m : Memory} (w : Memory.wfFrom lo m = true) {x : Nat} (h : x < lo) :
    Memory.read m x = Config.ramDefault := by
  induction m generalizing lo with
  | nil => rfl
  | cons c m ih =>
    obtain ⟨k, v⟩ := c
    simp only [Memory.wfFrom, Bool.and_eq_true, decide_eq_true_eq] at w
    rw [read_cons, if_neg (by omega), ih w.2 (by omega)]

theorem wfFrom_mono {lo lo' : Nat} {m : Memory} (h : lo' ≤ lo) (w : Memory.wfFrom lo m = true) :
    Memory.wfFrom lo' m = true := by
  cases m with
  | nil => rfl
  | cons c m =>
    simp only [Memory.wfFrom, Bool.and_eq_true, decide_eq_true_eq] at w ⊢
    exact ⟨⟨⟨by omega, w.1.1.2⟩, w.1.2⟩, w.2⟩

theorem wfFrom_memCons {lo a : Nat} {v : Word} {m : Memory} (hl : lo ≤ a) (ha : a < Config.ramWords)
    (w : Memory.wfFrom (a + 1) m = true) : Memory.wfFrom lo (Memory.cons a v m) = true := by
  unfold Memory.cons
  split
  · exact wfFrom_mono (by omega) w
  · next h => simp [Memory.wfFrom, hl, ha, w, h]

theorem wfFrom_write {lo a : Nat} {m : Memory} (v : Word) (hl : lo ≤ a) (ha : a < Config.ramWords)
    (w : Memory.wfFrom lo m = true) : Memory.wfFrom lo (Memory.write m a v) = true := by
  induction m generalizing lo with
  | nil => exact wfFrom_memCons hl ha rfl
  | cons c m ih =>
    obtain ⟨k, u⟩ := c
    have w' := w
    simp only [Memory.wfFrom, Bool.and_eq_true, decide_eq_true_eq] at w
    simp only [Memory.write]
    split
    next h =>
      refine wfFrom_memCons hl ha ?_
      simp only [Memory.wfFrom, Bool.and_eq_true, decide_eq_true_eq]
      exact ⟨⟨⟨h, w.1.1.2⟩, w.1.2⟩, w.2⟩
    next h =>
      split
      next e => subst e; exact wfFrom_memCons hl ha w.2
      next e =>
        simp only [Memory.wfFrom, Bool.and_eq_true, decide_eq_true_eq]
        exact ⟨⟨w.1.1, w.1.2⟩, ih (by omega) w.2⟩

/-- Every write within RAM keeps the canonical form. -/
theorem wf_write {m : Memory} (a v : Word) (w : Memory.wf m = true) : Memory.wf (Memory.write m a.toNat v) = true :=
  wfFrom_write v (Nat.zero_le _) a.isLt w

/-- The word written is the word read. -/
theorem read_write_same {lo : Nat} {m : Memory} (a : Nat) (v : Word) (w : Memory.wfFrom lo m = true) :
    Memory.read (Memory.write m a v) a = v := by
  have hc : ∀ m, Memory.wfFrom (a + 1) m = true → Memory.read (Memory.cons a v m) a = v := by
    intro m wm
    unfold Memory.cons
    split
    · next h => rw [read_below wm (by omega), h]
    · rw [read_cons, if_pos rfl]
  induction m generalizing lo with
  | nil => exact hc [] rfl
  | cons c m ih =>
    obtain ⟨k, u⟩ := c
    have w' := w
    simp only [Memory.wfFrom, Bool.and_eq_true, decide_eq_true_eq] at w
    simp only [Memory.write]
    split
    next h =>
      refine hc _ ?_
      simp only [Memory.wfFrom, Bool.and_eq_true, decide_eq_true_eq]
      exact ⟨⟨⟨h, w.1.1.2⟩, w.1.2⟩, w.2⟩
    next h =>
      split
      next e => subst e; exact hc _ w.2
      next e => rw [read_cons, if_neg (Ne.symm e), ih w.2]

/-- The state after reset has canonical memory. -/
theorem reset_ram_wf : Memory.wf State.reset.ram = true := rfl

/-- Two canonical memories that read alike are the same list. -/
theorem ext_of_read {lo : Nat} {m n : Memory} (wm : Memory.wfFrom lo m = true) (wn : Memory.wfFrom lo n = true)
    (h : ∀ x, Memory.read m x = Memory.read n x) : m = n := by
  induction m generalizing lo n with
  | nil =>
    cases n with
    | nil => rfl
    | cons c n =>
      obtain ⟨k, v⟩ := c
      have hk := h k
      rw [read_cons, if_pos rfl] at hk
      simp only [Memory.wfFrom, Bool.and_eq_true, bne_iff_ne] at wn
      exact absurd hk.symm wn.1.2
  | cons c m ih =>
    obtain ⟨k, v⟩ := c
    cases n with
    | nil =>
      have hk := h k
      rw [read_cons, if_pos rfl] at hk
      simp only [Memory.wfFrom, Bool.and_eq_true, bne_iff_ne] at wm
      exact absurd hk wm.1.2
    | cons d n =>
      obtain ⟨l, u⟩ := d
      simp only [Memory.wfFrom, Bool.and_eq_true, bne_iff_ne, decide_eq_true_eq] at wm wn
      have hkl : k = l := by
        rcases Nat.lt_trichotomy k l with g | g | g
        · have hk := h k
          rw [read_cons, if_pos rfl, read_cons, if_neg (by omega), read_below wn.2 (by omega)] at hk
          exact absurd hk wm.1.2
        · exact g
        · have hl := h l
          rw [read_cons, if_neg (by omega), read_cons, if_pos rfl, read_below wm.2 (by omega)] at hl
          exact absurd hl.symm wn.1.2
      subst hkl
      have hv : v = u := by simpa [read_cons] using h k
      subst hv
      refine congrArg _ (ih wm.2 wn.2 fun x => ?_)
      by_cases e : k = x
      · subst e; rw [read_below wm.2 (by omega), read_below wn.2 (by omega)]
      · simpa [read_cons, e] using h x

end Sys2Proof.Machine
end

