-- ==== Sys2Proof/Laws/State.lean ====
section
/-! SUPPORT. What each update of the state leaves in each field, so that no proof unfolds a record update. -/

namespace Sys2Proof.Machine
open Sys2Proof

variable (s : State)

@[simp] theorem setReg_regs (r : Reg) (v : Word) : (s.setReg r v).regs = s.regs.set r v := rfl
@[simp] theorem setReg_pc (r : Reg) (v : Word) : (s.setReg r v).pc = s.pc := rfl
@[simp] theorem setReg_sp (r : Reg) (v : Word) : (s.setReg r v).sp = s.sp := rfl
@[simp] theorem setReg_ex (r : Reg) (v : Word) : (s.setReg r v).ex = s.ex := rfl
@[simp] theorem setReg_pc0 (r : Reg) (v : Word) : (s.setReg r v).pc0 = s.pc0 := rfl
@[simp] theorem setReg_sp0 (r : Reg) (v : Word) : (s.setReg r v).sp0 = s.sp0 := rfl
@[simp] theorem setReg_skip (r : Reg) (v : Word) : (s.setReg r v).skip = s.skip := rfl
@[simp] theorem setReg_ia (r : Reg) (v : Word) : (s.setReg r v).ia = s.ia := rfl
@[simp] theorem setReg_susp (r : Reg) (v : Word) : (s.setReg r v).susp = s.susp := rfl
@[simp] theorem setReg_intq (r : Reg) (v : Word) : (s.setReg r v).intq = s.intq := rfl
@[simp] theorem setReg_intQueueCap (r : Reg) (v : Word) : (s.setReg r v).intQueueCap = s.intQueueCap := rfl
@[simp] theorem setReg_halt (r : Reg) (v : Word) : (s.setReg r v).halt = s.halt := rfl
@[simp] theorem setReg_reservedExec (r : Reg) (v : Word) : (s.setReg r v).reservedExec = s.reservedExec := rfl
@[simp] theorem setReg_fault (r : Reg) (v : Word) : (s.setReg r v).fault = s.fault := rfl
@[simp] theorem setReg_refused (r : Reg) (v : Word) : (s.setReg r v).refused = s.refused := rfl
@[simp] theorem setReg_cyc (r : Reg) (v : Word) : (s.setReg r v).cyc = s.cyc := rfl
@[simp] theorem setReg_ram (r : Reg) (v : Word) : (s.setReg r v).ram = s.ram := rfl
@[simp] theorem setReg_lines (r : Reg) (v : Word) : (s.setReg r v).lines = s.lines := rfl
@[simp] theorem setReg_devs (r : Reg) (v : Word) : (s.setReg r v).devs = s.devs := rfl
@[simp] theorem setReg_calls (r : Reg) (v : Word) : (s.setReg r v).calls = s.calls := rfl

@[simp] theorem setPc_regs (v : Word) : (s.setPc v).regs = s.regs := rfl
@[simp] theorem setPc_pc (v : Word) : (s.setPc v).pc = v := rfl
@[simp] theorem setPc_sp (v : Word) : (s.setPc v).sp = s.sp := rfl
@[simp] theorem setPc_ex (v : Word) : (s.setPc v).ex = s.ex := rfl
@[simp] theorem setPc_pc0 (v : Word) : (s.setPc v).pc0 = s.pc0 := rfl
@[simp] theorem setPc_sp0 (v : Word) : (s.setPc v).sp0 = s.sp0 := rfl
@[simp] theorem setPc_skip (v : Word) : (s.setPc v).skip = s.skip := rfl
@[simp] theorem setPc_ia (v : Word) : (s.setPc v).ia = s.ia := rfl
@[simp] theorem setPc_susp (v : Word) : (s.setPc v).susp = s.susp := rfl
@[simp] theorem setPc_intq (v : Word) : (s.setPc v).intq = s.intq := rfl
@[simp] theorem setPc_intQueueCap (v : Word) : (s.setPc v).intQueueCap = s.intQueueCap := rfl
@[simp] theorem setPc_halt (v : Word) : (s.setPc v).halt = s.halt := rfl
@[simp] theorem setPc_reservedExec (v : Word) : (s.setPc v).reservedExec = s.reservedExec := rfl
@[simp] theorem setPc_fault (v : Word) : (s.setPc v).fault = s.fault := rfl
@[simp] theorem setPc_refused (v : Word) : (s.setPc v).refused = s.refused := rfl
@[simp] theorem setPc_cyc (v : Word) : (s.setPc v).cyc = s.cyc := rfl
@[simp] theorem setPc_ram (v : Word) : (s.setPc v).ram = s.ram := rfl
@[simp] theorem setPc_lines (v : Word) : (s.setPc v).lines = s.lines := rfl
@[simp] theorem setPc_devs (v : Word) : (s.setPc v).devs = s.devs := rfl
@[simp] theorem setPc_calls (v : Word) : (s.setPc v).calls = s.calls := rfl

@[simp] theorem setSp_regs (v : Word) : (s.setSp v).regs = s.regs := rfl
@[simp] theorem setSp_pc (v : Word) : (s.setSp v).pc = s.pc := rfl
@[simp] theorem setSp_sp (v : Word) : (s.setSp v).sp = v := rfl
@[simp] theorem setSp_ex (v : Word) : (s.setSp v).ex = s.ex := rfl
@[simp] theorem setSp_pc0 (v : Word) : (s.setSp v).pc0 = s.pc0 := rfl
@[simp] theorem setSp_sp0 (v : Word) : (s.setSp v).sp0 = s.sp0 := rfl
@[simp] theorem setSp_skip (v : Word) : (s.setSp v).skip = s.skip := rfl
@[simp] theorem setSp_ia (v : Word) : (s.setSp v).ia = s.ia := rfl
@[simp] theorem setSp_susp (v : Word) : (s.setSp v).susp = s.susp := rfl
@[simp] theorem setSp_intq (v : Word) : (s.setSp v).intq = s.intq := rfl
@[simp] theorem setSp_intQueueCap (v : Word) : (s.setSp v).intQueueCap = s.intQueueCap := rfl
@[simp] theorem setSp_halt (v : Word) : (s.setSp v).halt = s.halt := rfl
@[simp] theorem setSp_reservedExec (v : Word) : (s.setSp v).reservedExec = s.reservedExec := rfl
@[simp] theorem setSp_fault (v : Word) : (s.setSp v).fault = s.fault := rfl
@[simp] theorem setSp_refused (v : Word) : (s.setSp v).refused = s.refused := rfl
@[simp] theorem setSp_cyc (v : Word) : (s.setSp v).cyc = s.cyc := rfl
@[simp] theorem setSp_ram (v : Word) : (s.setSp v).ram = s.ram := rfl
@[simp] theorem setSp_lines (v : Word) : (s.setSp v).lines = s.lines := rfl
@[simp] theorem setSp_devs (v : Word) : (s.setSp v).devs = s.devs := rfl
@[simp] theorem setSp_calls (v : Word) : (s.setSp v).calls = s.calls := rfl

@[simp] theorem setEx_regs (v : Word) : (s.setEx v).regs = s.regs := rfl
@[simp] theorem setEx_pc (v : Word) : (s.setEx v).pc = s.pc := rfl
@[simp] theorem setEx_sp (v : Word) : (s.setEx v).sp = s.sp := rfl
@[simp] theorem setEx_ex (v : Word) : (s.setEx v).ex = v := rfl
@[simp] theorem setEx_pc0 (v : Word) : (s.setEx v).pc0 = s.pc0 := rfl
@[simp] theorem setEx_sp0 (v : Word) : (s.setEx v).sp0 = s.sp0 := rfl
@[simp] theorem setEx_skip (v : Word) : (s.setEx v).skip = s.skip := rfl
@[simp] theorem setEx_ia (v : Word) : (s.setEx v).ia = s.ia := rfl
@[simp] theorem setEx_susp (v : Word) : (s.setEx v).susp = s.susp := rfl
@[simp] theorem setEx_intq (v : Word) : (s.setEx v).intq = s.intq := rfl
@[simp] theorem setEx_intQueueCap (v : Word) : (s.setEx v).intQueueCap = s.intQueueCap := rfl
@[simp] theorem setEx_halt (v : Word) : (s.setEx v).halt = s.halt := rfl
@[simp] theorem setEx_reservedExec (v : Word) : (s.setEx v).reservedExec = s.reservedExec := rfl
@[simp] theorem setEx_fault (v : Word) : (s.setEx v).fault = s.fault := rfl
@[simp] theorem setEx_refused (v : Word) : (s.setEx v).refused = s.refused := rfl
@[simp] theorem setEx_cyc (v : Word) : (s.setEx v).cyc = s.cyc := rfl
@[simp] theorem setEx_ram (v : Word) : (s.setEx v).ram = s.ram := rfl
@[simp] theorem setEx_lines (v : Word) : (s.setEx v).lines = s.lines := rfl
@[simp] theorem setEx_devs (v : Word) : (s.setEx v).devs = s.devs := rfl
@[simp] theorem setEx_calls (v : Word) : (s.setEx v).calls = s.calls := rfl

@[simp] theorem setSkip_regs (v : Bool) : (s.setSkip v).regs = s.regs := rfl
@[simp] theorem setSkip_pc (v : Bool) : (s.setSkip v).pc = s.pc := rfl
@[simp] theorem setSkip_sp (v : Bool) : (s.setSkip v).sp = s.sp := rfl
@[simp] theorem setSkip_ex (v : Bool) : (s.setSkip v).ex = s.ex := rfl
@[simp] theorem setSkip_pc0 (v : Bool) : (s.setSkip v).pc0 = s.pc0 := rfl
@[simp] theorem setSkip_sp0 (v : Bool) : (s.setSkip v).sp0 = s.sp0 := rfl
@[simp] theorem setSkip_skip (v : Bool) : (s.setSkip v).skip = v := rfl
@[simp] theorem setSkip_ia (v : Bool) : (s.setSkip v).ia = s.ia := rfl
@[simp] theorem setSkip_susp (v : Bool) : (s.setSkip v).susp = s.susp := rfl
@[simp] theorem setSkip_intq (v : Bool) : (s.setSkip v).intq = s.intq := rfl
@[simp] theorem setSkip_intQueueCap (v : Bool) : (s.setSkip v).intQueueCap = s.intQueueCap := rfl
@[simp] theorem setSkip_halt (v : Bool) : (s.setSkip v).halt = s.halt := rfl
@[simp] theorem setSkip_reservedExec (v : Bool) : (s.setSkip v).reservedExec = s.reservedExec := rfl
@[simp] theorem setSkip_fault (v : Bool) : (s.setSkip v).fault = s.fault := rfl
@[simp] theorem setSkip_refused (v : Bool) : (s.setSkip v).refused = s.refused := rfl
@[simp] theorem setSkip_cyc (v : Bool) : (s.setSkip v).cyc = s.cyc := rfl
@[simp] theorem setSkip_ram (v : Bool) : (s.setSkip v).ram = s.ram := rfl
@[simp] theorem setSkip_lines (v : Bool) : (s.setSkip v).lines = s.lines := rfl
@[simp] theorem setSkip_devs (v : Bool) : (s.setSkip v).devs = s.devs := rfl
@[simp] theorem setSkip_calls (v : Bool) : (s.setSkip v).calls = s.calls := rfl

@[simp] theorem setIa_regs (v : Word) : (s.setIa v).regs = s.regs := rfl
@[simp] theorem setIa_pc (v : Word) : (s.setIa v).pc = s.pc := rfl
@[simp] theorem setIa_sp (v : Word) : (s.setIa v).sp = s.sp := rfl
@[simp] theorem setIa_ex (v : Word) : (s.setIa v).ex = s.ex := rfl
@[simp] theorem setIa_pc0 (v : Word) : (s.setIa v).pc0 = s.pc0 := rfl
@[simp] theorem setIa_sp0 (v : Word) : (s.setIa v).sp0 = s.sp0 := rfl
@[simp] theorem setIa_skip (v : Word) : (s.setIa v).skip = s.skip := rfl
@[simp] theorem setIa_ia (v : Word) : (s.setIa v).ia = v := rfl
@[simp] theorem setIa_susp (v : Word) : (s.setIa v).susp = s.susp := rfl
@[simp] theorem setIa_intq (v : Word) : (s.setIa v).intq = s.intq := rfl
@[simp] theorem setIa_intQueueCap (v : Word) : (s.setIa v).intQueueCap = s.intQueueCap := rfl
@[simp] theorem setIa_halt (v : Word) : (s.setIa v).halt = s.halt := rfl
@[simp] theorem setIa_reservedExec (v : Word) : (s.setIa v).reservedExec = s.reservedExec := rfl
@[simp] theorem setIa_fault (v : Word) : (s.setIa v).fault = s.fault := rfl
@[simp] theorem setIa_refused (v : Word) : (s.setIa v).refused = s.refused := rfl
@[simp] theorem setIa_cyc (v : Word) : (s.setIa v).cyc = s.cyc := rfl
@[simp] theorem setIa_ram (v : Word) : (s.setIa v).ram = s.ram := rfl
@[simp] theorem setIa_lines (v : Word) : (s.setIa v).lines = s.lines := rfl
@[simp] theorem setIa_devs (v : Word) : (s.setIa v).devs = s.devs := rfl
@[simp] theorem setIa_calls (v : Word) : (s.setIa v).calls = s.calls := rfl

@[simp] theorem setSusp_regs (v : Bool) : (s.setSusp v).regs = s.regs := rfl
@[simp] theorem setSusp_pc (v : Bool) : (s.setSusp v).pc = s.pc := rfl
@[simp] theorem setSusp_sp (v : Bool) : (s.setSusp v).sp = s.sp := rfl
@[simp] theorem setSusp_ex (v : Bool) : (s.setSusp v).ex = s.ex := rfl
@[simp] theorem setSusp_pc0 (v : Bool) : (s.setSusp v).pc0 = s.pc0 := rfl
@[simp] theorem setSusp_sp0 (v : Bool) : (s.setSusp v).sp0 = s.sp0 := rfl
@[simp] theorem setSusp_skip (v : Bool) : (s.setSusp v).skip = s.skip := rfl
@[simp] theorem setSusp_ia (v : Bool) : (s.setSusp v).ia = s.ia := rfl
@[simp] theorem setSusp_susp (v : Bool) : (s.setSusp v).susp = v := rfl
@[simp] theorem setSusp_intq (v : Bool) : (s.setSusp v).intq = s.intq := rfl
@[simp] theorem setSusp_intQueueCap (v : Bool) : (s.setSusp v).intQueueCap = s.intQueueCap := rfl
@[simp] theorem setSusp_halt (v : Bool) : (s.setSusp v).halt = s.halt := rfl
@[simp] theorem setSusp_reservedExec (v : Bool) : (s.setSusp v).reservedExec = s.reservedExec := rfl
@[simp] theorem setSusp_fault (v : Bool) : (s.setSusp v).fault = s.fault := rfl
@[simp] theorem setSusp_refused (v : Bool) : (s.setSusp v).refused = s.refused := rfl
@[simp] theorem setSusp_cyc (v : Bool) : (s.setSusp v).cyc = s.cyc := rfl
@[simp] theorem setSusp_ram (v : Bool) : (s.setSusp v).ram = s.ram := rfl
@[simp] theorem setSusp_lines (v : Bool) : (s.setSusp v).lines = s.lines := rfl
@[simp] theorem setSusp_devs (v : Bool) : (s.setSusp v).devs = s.devs := rfl
@[simp] theorem setSusp_calls (v : Bool) : (s.setSusp v).calls = s.calls := rfl

@[simp] theorem setIntq_regs (q : List Word) : (s.setIntq q).regs = s.regs := rfl
@[simp] theorem setIntq_pc (q : List Word) : (s.setIntq q).pc = s.pc := rfl
@[simp] theorem setIntq_sp (q : List Word) : (s.setIntq q).sp = s.sp := rfl
@[simp] theorem setIntq_ex (q : List Word) : (s.setIntq q).ex = s.ex := rfl
@[simp] theorem setIntq_pc0 (q : List Word) : (s.setIntq q).pc0 = s.pc0 := rfl
@[simp] theorem setIntq_sp0 (q : List Word) : (s.setIntq q).sp0 = s.sp0 := rfl
@[simp] theorem setIntq_skip (q : List Word) : (s.setIntq q).skip = s.skip := rfl
@[simp] theorem setIntq_ia (q : List Word) : (s.setIntq q).ia = s.ia := rfl
@[simp] theorem setIntq_susp (q : List Word) : (s.setIntq q).susp = s.susp := rfl
@[simp] theorem setIntq_intq (q : List Word) : (s.setIntq q).intq = q := rfl
@[simp] theorem setIntq_intQueueCap (q : List Word) : (s.setIntq q).intQueueCap = s.intQueueCap := rfl
@[simp] theorem setIntq_halt (q : List Word) : (s.setIntq q).halt = s.halt := rfl
@[simp] theorem setIntq_reservedExec (q : List Word) : (s.setIntq q).reservedExec = s.reservedExec := rfl
@[simp] theorem setIntq_fault (q : List Word) : (s.setIntq q).fault = s.fault := rfl
@[simp] theorem setIntq_refused (q : List Word) : (s.setIntq q).refused = s.refused := rfl
@[simp] theorem setIntq_cyc (q : List Word) : (s.setIntq q).cyc = s.cyc := rfl
@[simp] theorem setIntq_ram (q : List Word) : (s.setIntq q).ram = s.ram := rfl
@[simp] theorem setIntq_lines (q : List Word) : (s.setIntq q).lines = s.lines := rfl
@[simp] theorem setIntq_devs (q : List Word) : (s.setIntq q).devs = s.devs := rfl
@[simp] theorem setIntq_calls (q : List Word) : (s.setIntq q).calls = s.calls := rfl

@[simp] theorem setHalt_regs (v : Bool) : (s.setHalt v).regs = s.regs := rfl
@[simp] theorem setHalt_pc (v : Bool) : (s.setHalt v).pc = s.pc := rfl
@[simp] theorem setHalt_sp (v : Bool) : (s.setHalt v).sp = s.sp := rfl
@[simp] theorem setHalt_ex (v : Bool) : (s.setHalt v).ex = s.ex := rfl
@[simp] theorem setHalt_pc0 (v : Bool) : (s.setHalt v).pc0 = s.pc0 := rfl
@[simp] theorem setHalt_sp0 (v : Bool) : (s.setHalt v).sp0 = s.sp0 := rfl
@[simp] theorem setHalt_skip (v : Bool) : (s.setHalt v).skip = s.skip := rfl
@[simp] theorem setHalt_ia (v : Bool) : (s.setHalt v).ia = s.ia := rfl
@[simp] theorem setHalt_susp (v : Bool) : (s.setHalt v).susp = s.susp := rfl
@[simp] theorem setHalt_intq (v : Bool) : (s.setHalt v).intq = s.intq := rfl
@[simp] theorem setHalt_intQueueCap (v : Bool) : (s.setHalt v).intQueueCap = s.intQueueCap := rfl
@[simp] theorem setHalt_halt (v : Bool) : (s.setHalt v).halt = v := rfl
@[simp] theorem setHalt_reservedExec (v : Bool) : (s.setHalt v).reservedExec = s.reservedExec := rfl
@[simp] theorem setHalt_fault (v : Bool) : (s.setHalt v).fault = s.fault := rfl
@[simp] theorem setHalt_refused (v : Bool) : (s.setHalt v).refused = s.refused := rfl
@[simp] theorem setHalt_cyc (v : Bool) : (s.setHalt v).cyc = s.cyc := rfl
@[simp] theorem setHalt_ram (v : Bool) : (s.setHalt v).ram = s.ram := rfl
@[simp] theorem setHalt_lines (v : Bool) : (s.setHalt v).lines = s.lines := rfl
@[simp] theorem setHalt_devs (v : Bool) : (s.setHalt v).devs = s.devs := rfl
@[simp] theorem setHalt_calls (v : Bool) : (s.setHalt v).calls = s.calls := rfl

@[simp] theorem setReservedExec_regs (v : Bool) : (s.setReservedExec v).regs = s.regs := rfl
@[simp] theorem setReservedExec_pc (v : Bool) : (s.setReservedExec v).pc = s.pc := rfl
@[simp] theorem setReservedExec_sp (v : Bool) : (s.setReservedExec v).sp = s.sp := rfl
@[simp] theorem setReservedExec_ex (v : Bool) : (s.setReservedExec v).ex = s.ex := rfl
@[simp] theorem setReservedExec_pc0 (v : Bool) : (s.setReservedExec v).pc0 = s.pc0 := rfl
@[simp] theorem setReservedExec_sp0 (v : Bool) : (s.setReservedExec v).sp0 = s.sp0 := rfl
@[simp] theorem setReservedExec_skip (v : Bool) : (s.setReservedExec v).skip = s.skip := rfl
@[simp] theorem setReservedExec_ia (v : Bool) : (s.setReservedExec v).ia = s.ia := rfl
@[simp] theorem setReservedExec_susp (v : Bool) : (s.setReservedExec v).susp = s.susp := rfl
@[simp] theorem setReservedExec_intq (v : Bool) : (s.setReservedExec v).intq = s.intq := rfl
@[simp] theorem setReservedExec_intQueueCap (v : Bool) : (s.setReservedExec v).intQueueCap = s.intQueueCap := rfl
@[simp] theorem setReservedExec_halt (v : Bool) : (s.setReservedExec v).halt = s.halt := rfl
@[simp] theorem setReservedExec_reservedExec (v : Bool) : (s.setReservedExec v).reservedExec = v := rfl
@[simp] theorem setReservedExec_fault (v : Bool) : (s.setReservedExec v).fault = s.fault := rfl
@[simp] theorem setReservedExec_refused (v : Bool) : (s.setReservedExec v).refused = s.refused := rfl
@[simp] theorem setReservedExec_cyc (v : Bool) : (s.setReservedExec v).cyc = s.cyc := rfl
@[simp] theorem setReservedExec_ram (v : Bool) : (s.setReservedExec v).ram = s.ram := rfl
@[simp] theorem setReservedExec_lines (v : Bool) : (s.setReservedExec v).lines = s.lines := rfl
@[simp] theorem setReservedExec_devs (v : Bool) : (s.setReservedExec v).devs = s.devs := rfl
@[simp] theorem setReservedExec_calls (v : Bool) : (s.setReservedExec v).calls = s.calls := rfl

@[simp] theorem setFault_regs (f : FaultReason) : (s.setFault f).regs = s.regs := rfl
@[simp] theorem setFault_pc (f : FaultReason) : (s.setFault f).pc = s.pc := rfl
@[simp] theorem setFault_sp (f : FaultReason) : (s.setFault f).sp = s.sp := rfl
@[simp] theorem setFault_ex (f : FaultReason) : (s.setFault f).ex = s.ex := rfl
@[simp] theorem setFault_pc0 (f : FaultReason) : (s.setFault f).pc0 = s.pc0 := rfl
@[simp] theorem setFault_sp0 (f : FaultReason) : (s.setFault f).sp0 = s.sp0 := rfl
@[simp] theorem setFault_skip (f : FaultReason) : (s.setFault f).skip = s.skip := rfl
@[simp] theorem setFault_ia (f : FaultReason) : (s.setFault f).ia = s.ia := rfl
@[simp] theorem setFault_susp (f : FaultReason) : (s.setFault f).susp = s.susp := rfl
@[simp] theorem setFault_intq (f : FaultReason) : (s.setFault f).intq = s.intq := rfl
@[simp] theorem setFault_intQueueCap (f : FaultReason) : (s.setFault f).intQueueCap = s.intQueueCap := rfl
@[simp] theorem setFault_halt (f : FaultReason) : (s.setFault f).halt = s.halt := rfl
@[simp] theorem setFault_reservedExec (f : FaultReason) : (s.setFault f).reservedExec = s.reservedExec := rfl
@[simp] theorem setFault_fault (f : FaultReason) : (s.setFault f).fault = some f := rfl
@[simp] theorem setFault_refused (f : FaultReason) : (s.setFault f).refused = s.refused := rfl
@[simp] theorem setFault_cyc (f : FaultReason) : (s.setFault f).cyc = s.cyc := rfl
@[simp] theorem setFault_ram (f : FaultReason) : (s.setFault f).ram = s.ram := rfl
@[simp] theorem setFault_lines (f : FaultReason) : (s.setFault f).lines = s.lines := rfl
@[simp] theorem setFault_devs (f : FaultReason) : (s.setFault f).devs = s.devs := rfl
@[simp] theorem setFault_calls (f : FaultReason) : (s.setFault f).calls = s.calls := rfl

@[simp] theorem setRefused_regs (f : RefuseReason) : (s.setRefused f).regs = s.regs := rfl
@[simp] theorem setRefused_pc (f : RefuseReason) : (s.setRefused f).pc = s.pc := rfl
@[simp] theorem setRefused_sp (f : RefuseReason) : (s.setRefused f).sp = s.sp := rfl
@[simp] theorem setRefused_ex (f : RefuseReason) : (s.setRefused f).ex = s.ex := rfl
@[simp] theorem setRefused_pc0 (f : RefuseReason) : (s.setRefused f).pc0 = s.pc0 := rfl
@[simp] theorem setRefused_sp0 (f : RefuseReason) : (s.setRefused f).sp0 = s.sp0 := rfl
@[simp] theorem setRefused_skip (f : RefuseReason) : (s.setRefused f).skip = s.skip := rfl
@[simp] theorem setRefused_ia (f : RefuseReason) : (s.setRefused f).ia = s.ia := rfl
@[simp] theorem setRefused_susp (f : RefuseReason) : (s.setRefused f).susp = s.susp := rfl
@[simp] theorem setRefused_intq (f : RefuseReason) : (s.setRefused f).intq = s.intq := rfl
@[simp] theorem setRefused_intQueueCap (f : RefuseReason) : (s.setRefused f).intQueueCap = s.intQueueCap := rfl
@[simp] theorem setRefused_halt (f : RefuseReason) : (s.setRefused f).halt = s.halt := rfl
@[simp] theorem setRefused_reservedExec (f : RefuseReason) : (s.setRefused f).reservedExec = s.reservedExec := rfl
@[simp] theorem setRefused_fault (f : RefuseReason) : (s.setRefused f).fault = s.fault := rfl
@[simp] theorem setRefused_refused (f : RefuseReason) : (s.setRefused f).refused = some f := rfl
@[simp] theorem setRefused_cyc (f : RefuseReason) : (s.setRefused f).cyc = s.cyc := rfl
@[simp] theorem setRefused_ram (f : RefuseReason) : (s.setRefused f).ram = s.ram := rfl
@[simp] theorem setRefused_lines (f : RefuseReason) : (s.setRefused f).lines = s.lines := rfl
@[simp] theorem setRefused_devs (f : RefuseReason) : (s.setRefused f).devs = s.devs := rfl
@[simp] theorem setRefused_calls (f : RefuseReason) : (s.setRefused f).calls = s.calls := rfl

@[simp] theorem addCyc_regs (n : Nat) : (s.addCyc n).regs = s.regs := rfl
@[simp] theorem addCyc_pc (n : Nat) : (s.addCyc n).pc = s.pc := rfl
@[simp] theorem addCyc_sp (n : Nat) : (s.addCyc n).sp = s.sp := rfl
@[simp] theorem addCyc_ex (n : Nat) : (s.addCyc n).ex = s.ex := rfl
@[simp] theorem addCyc_pc0 (n : Nat) : (s.addCyc n).pc0 = s.pc0 := rfl
@[simp] theorem addCyc_sp0 (n : Nat) : (s.addCyc n).sp0 = s.sp0 := rfl
@[simp] theorem addCyc_skip (n : Nat) : (s.addCyc n).skip = s.skip := rfl
@[simp] theorem addCyc_ia (n : Nat) : (s.addCyc n).ia = s.ia := rfl
@[simp] theorem addCyc_susp (n : Nat) : (s.addCyc n).susp = s.susp := rfl
@[simp] theorem addCyc_intq (n : Nat) : (s.addCyc n).intq = s.intq := rfl
@[simp] theorem addCyc_intQueueCap (n : Nat) : (s.addCyc n).intQueueCap = s.intQueueCap := rfl
@[simp] theorem addCyc_halt (n : Nat) : (s.addCyc n).halt = s.halt := rfl
@[simp] theorem addCyc_reservedExec (n : Nat) : (s.addCyc n).reservedExec = s.reservedExec := rfl
@[simp] theorem addCyc_fault (n : Nat) : (s.addCyc n).fault = s.fault := rfl
@[simp] theorem addCyc_refused (n : Nat) : (s.addCyc n).refused = s.refused := rfl
@[simp] theorem addCyc_cyc (n : Nat) : (s.addCyc n).cyc = s.cyc + n := rfl
@[simp] theorem addCyc_ram (n : Nat) : (s.addCyc n).ram = s.ram := rfl
@[simp] theorem addCyc_lines (n : Nat) : (s.addCyc n).lines = s.lines := rfl
@[simp] theorem addCyc_devs (n : Nat) : (s.addCyc n).devs = s.devs := rfl
@[simp] theorem addCyc_calls (n : Nat) : (s.addCyc n).calls = s.calls := rfl

@[simp] theorem setRam_regs (m : Memory) : (s.setRam m).regs = s.regs := rfl
@[simp] theorem setRam_pc (m : Memory) : (s.setRam m).pc = s.pc := rfl
@[simp] theorem setRam_sp (m : Memory) : (s.setRam m).sp = s.sp := rfl
@[simp] theorem setRam_ex (m : Memory) : (s.setRam m).ex = s.ex := rfl
@[simp] theorem setRam_pc0 (m : Memory) : (s.setRam m).pc0 = s.pc0 := rfl
@[simp] theorem setRam_sp0 (m : Memory) : (s.setRam m).sp0 = s.sp0 := rfl
@[simp] theorem setRam_skip (m : Memory) : (s.setRam m).skip = s.skip := rfl
@[simp] theorem setRam_ia (m : Memory) : (s.setRam m).ia = s.ia := rfl
@[simp] theorem setRam_susp (m : Memory) : (s.setRam m).susp = s.susp := rfl
@[simp] theorem setRam_intq (m : Memory) : (s.setRam m).intq = s.intq := rfl
@[simp] theorem setRam_intQueueCap (m : Memory) : (s.setRam m).intQueueCap = s.intQueueCap := rfl
@[simp] theorem setRam_halt (m : Memory) : (s.setRam m).halt = s.halt := rfl
@[simp] theorem setRam_reservedExec (m : Memory) : (s.setRam m).reservedExec = s.reservedExec := rfl
@[simp] theorem setRam_fault (m : Memory) : (s.setRam m).fault = s.fault := rfl
@[simp] theorem setRam_refused (m : Memory) : (s.setRam m).refused = s.refused := rfl
@[simp] theorem setRam_cyc (m : Memory) : (s.setRam m).cyc = s.cyc := rfl
@[simp] theorem setRam_ram (m : Memory) : (s.setRam m).ram = m := rfl
@[simp] theorem setRam_lines (m : Memory) : (s.setRam m).lines = s.lines := rfl
@[simp] theorem setRam_devs (m : Memory) : (s.setRam m).devs = s.devs := rfl
@[simp] theorem setRam_calls (m : Memory) : (s.setRam m).calls = s.calls := rfl

@[simp] theorem logCall_regs (c : DeviceCall) : (s.logCall c).regs = s.regs := rfl
@[simp] theorem logCall_pc (c : DeviceCall) : (s.logCall c).pc = s.pc := rfl
@[simp] theorem logCall_sp (c : DeviceCall) : (s.logCall c).sp = s.sp := rfl
@[simp] theorem logCall_ex (c : DeviceCall) : (s.logCall c).ex = s.ex := rfl
@[simp] theorem logCall_pc0 (c : DeviceCall) : (s.logCall c).pc0 = s.pc0 := rfl
@[simp] theorem logCall_sp0 (c : DeviceCall) : (s.logCall c).sp0 = s.sp0 := rfl
@[simp] theorem logCall_skip (c : DeviceCall) : (s.logCall c).skip = s.skip := rfl
@[simp] theorem logCall_ia (c : DeviceCall) : (s.logCall c).ia = s.ia := rfl
@[simp] theorem logCall_susp (c : DeviceCall) : (s.logCall c).susp = s.susp := rfl
@[simp] theorem logCall_intq (c : DeviceCall) : (s.logCall c).intq = s.intq := rfl
@[simp] theorem logCall_intQueueCap (c : DeviceCall) : (s.logCall c).intQueueCap = s.intQueueCap := rfl
@[simp] theorem logCall_halt (c : DeviceCall) : (s.logCall c).halt = s.halt := rfl
@[simp] theorem logCall_reservedExec (c : DeviceCall) : (s.logCall c).reservedExec = s.reservedExec := rfl
@[simp] theorem logCall_fault (c : DeviceCall) : (s.logCall c).fault = s.fault := rfl
@[simp] theorem logCall_refused (c : DeviceCall) : (s.logCall c).refused = s.refused := rfl
@[simp] theorem logCall_cyc (c : DeviceCall) : (s.logCall c).cyc = s.cyc := rfl
@[simp] theorem logCall_ram (c : DeviceCall) : (s.logCall c).ram = s.ram := rfl
@[simp] theorem logCall_lines (c : DeviceCall) : (s.logCall c).lines = s.lines := rfl
@[simp] theorem logCall_devs (c : DeviceCall) : (s.logCall c).devs = s.devs := rfl
@[simp] theorem logCall_calls (c : DeviceCall) : (s.logCall c).calls = s.calls ++ [c] := rfl

@[simp] theorem captureShadows_regs : s.captureShadows.regs = s.regs := rfl
@[simp] theorem captureShadows_pc : s.captureShadows.pc = s.pc := rfl
@[simp] theorem captureShadows_sp : s.captureShadows.sp = s.sp := rfl
@[simp] theorem captureShadows_ex : s.captureShadows.ex = s.ex := rfl
@[simp] theorem captureShadows_pc0 : s.captureShadows.pc0 = s.pc := rfl
@[simp] theorem captureShadows_sp0 : s.captureShadows.sp0 = s.sp := rfl
@[simp] theorem captureShadows_skip : s.captureShadows.skip = s.skip := rfl
@[simp] theorem captureShadows_ia : s.captureShadows.ia = s.ia := rfl
@[simp] theorem captureShadows_susp : s.captureShadows.susp = s.susp := rfl
@[simp] theorem captureShadows_intq : s.captureShadows.intq = s.intq := rfl
@[simp] theorem captureShadows_intQueueCap : s.captureShadows.intQueueCap = s.intQueueCap := rfl
@[simp] theorem captureShadows_halt : s.captureShadows.halt = s.halt := rfl
@[simp] theorem captureShadows_reservedExec : s.captureShadows.reservedExec = s.reservedExec := rfl
@[simp] theorem captureShadows_fault : s.captureShadows.fault = s.fault := rfl
@[simp] theorem captureShadows_refused : s.captureShadows.refused = s.refused := rfl
@[simp] theorem captureShadows_cyc : s.captureShadows.cyc = s.cyc := rfl
@[simp] theorem captureShadows_ram : s.captureShadows.ram = s.ram := rfl
@[simp] theorem captureShadows_lines : s.captureShadows.lines = s.lines := rfl
@[simp] theorem captureShadows_devs : s.captureShadows.devs = s.devs := rfl
@[simp] theorem captureShadows_calls : s.captureShadows.calls = s.calls := rfl

@[simp] theorem setPc_reg (v : Word) (q : Reg) : (s.setPc v).reg q = s.reg q := rfl
@[simp] theorem setSp_reg (v : Word) (q : Reg) : (s.setSp v).reg q = s.reg q := rfl
@[simp] theorem setEx_reg (v : Word) (q : Reg) : (s.setEx v).reg q = s.reg q := rfl
@[simp] theorem setSkip_reg (v : Bool) (q : Reg) : (s.setSkip v).reg q = s.reg q := rfl
@[simp] theorem setIa_reg (v : Word) (q : Reg) : (s.setIa v).reg q = s.reg q := rfl
@[simp] theorem setSusp_reg (v : Bool) (q : Reg) : (s.setSusp v).reg q = s.reg q := rfl
@[simp] theorem setIntq_reg (l : List Word) (q : Reg) : (s.setIntq l).reg q = s.reg q := rfl
@[simp] theorem setHalt_reg (v : Bool) (q : Reg) : (s.setHalt v).reg q = s.reg q := rfl
@[simp] theorem setReservedExec_reg (v : Bool) (q : Reg) : (s.setReservedExec v).reg q = s.reg q := rfl
@[simp] theorem setFault_reg (f : FaultReason) (q : Reg) : (s.setFault f).reg q = s.reg q := rfl
@[simp] theorem setRefused_reg (f : RefuseReason) (q : Reg) : (s.setRefused f).reg q = s.reg q := rfl
@[simp] theorem addCyc_reg (n : Nat) (q : Reg) : (s.addCyc n).reg q = s.reg q := rfl
@[simp] theorem setRam_reg (m : Memory) (q : Reg) : (s.setRam m).reg q = s.reg q := rfl
@[simp] theorem logCall_reg (c : DeviceCall) (q : Reg) : (s.logCall c).reg q = s.reg q := rfl
@[simp] theorem captureShadows_reg (q : Reg) : s.captureShadows.reg q = s.reg q := rfl

theorem get_set (g : Regs) (r q : Reg) (v : Word) : (g.set r v).get q = if q = r then v else g.get q := by
  cases r <;> cases q <;> rfl

/-- A register after a write to a register. -/
@[simp] theorem setReg_reg (r q : Reg) (v : Word) : (s.setReg r v).reg q = if q = r then v else s.reg q :=
  get_set s.regs r q v

/-- Register files are equal when every register is. -/
theorem regs_ext {g h : Regs} (e : ∀ q, g.get q = h.get q) : g = h := by
  cases g; cases h
  simp only [Regs.mk.injEq]
  exact ⟨e .a, e .b, e .c, e .x, e .y, e .z, e .i, e .j⟩

end Sys2Proof.Machine
end

