-- ==== Sys2Proof/Laws/Ops.lean ====
section
/-! SUPPORT. What each shared operation can do: sequencing, what a device call may change, the multiplexer, fetch, push and
pop, and their closed forms where no line is claimed. -/

namespace Sys2Proof.Machine
open Sys2Proof

/-! ## Sequencing -/

section Sequencing
variable {α β : Type}

@[simp] theorem bind_ok (v : α) (s : State) (k : α → State → Res β) : (Res.ok v s).bind k = k v s := rfl
@[simp] theorem bind_raised (s : State) (k : α → State → Res β) : (Res.raised s : Res α).bind k = .raised s := rfl
@[simp] theorem state_ok (v : α) (s : State) : (Res.ok v s).state = s := rfl
@[simp] theorem state_raised (s : State) : (Res.raised s : Res α).state = s := rfl
@[simp] theorem outcome_ok (s : State) : (Res.ok () s).outcome = .next s := rfl
@[simp] theorem outcome_raised (s : State) : (Res.raised s).outcome = .next s := rfl

/-- A meaning's outcome is the state its computation leaves. -/
theorem outcome_eq_next {r : Res Unit} {t : State} : r.outcome = .next t ↔ r.state = t := by
  simp [Res.outcome]

/-- What a chain of operations leaves: if each link relates its states by a transitive relation, so does the chain. -/
theorem bind_state {P : State → State → Prop} (tr : ∀ s t u, P s t → P t u → P s u) {s : State} {r : Res α}
    {k : α → State → Res β} (h1 : P s r.state) (h2 : ∀ v t, r = .ok v t → P t (k v t).state) :
    P s (r.bind k).state := by
  cases r with
  | ok v t => exact tr _ _ _ h1 (h2 v t rfl)
  | raised t => exact h1

/-- Where a chain goes on, both links did. -/
theorem bind_eq_ok {r : Res α} {k : α → State → Res β} {v : β} {t : State} :
    r.bind k = .ok v t ↔ ∃ w u, r = .ok w u ∧ k w u = .ok v t := by
  cases r <;> simp

/-- Where a chain is cut short, one link raised. -/
theorem bind_eq_raised {r : Res α} {k : α → State → Res β} {t : State} :
    r.bind k = .raised t ↔ r = .raised t ∨ ∃ w u, r = .ok w u ∧ k w u = .raised t := by
  cases r <;> simp

end Sequencing

/-! ## What a device may change -/

/-- Everything a device's services can do to the core (R282): INTQ, HALT, FAULT, CYC, RAM and the log of calls may differ,
nothing else; CYC does not fall and HALT is not cleared; RAM stays canonical and the queue within its capacity. -/
structure DeviceEffect (s t : State) : Prop where
  frame : t = { s with intq := t.intq, halt := t.halt, fault := t.fault, cyc := t.cyc, ram := t.ram, calls := t.calls }
  cyc_le : s.cyc ≤ t.cyc
  halt_mono : s.halt = true → t.halt = true
  ram_wf : Memory.wf s.ram = true → Memory.wf t.ram = true
  queue : s.intq.length ≤ s.intQueueCap → (s.fault.isSome = true → s.intq.length = s.intQueueCap) →
    t.intq.length ≤ t.intQueueCap ∧ (t.fault.isSome = true → t.intq.length = t.intQueueCap)

theorem DeviceEffect.refl (s : State) : DeviceEffect s s := ⟨rfl, Nat.le_refl _, id, id, fun a b => ⟨a, b⟩⟩

theorem DeviceEffect.trans (s t u : State) (a : DeviceEffect s t) (b : DeviceEffect t u) : DeviceEffect s u where
  frame := by rw [b.frame, a.frame]
  cyc_le := Nat.le_trans a.cyc_le b.cyc_le
  halt_mono h := b.halt_mono (a.halt_mono h)
  ram_wf h := b.ram_wf (a.ram_wf h)
  queue h g := b.queue (a.queue h g).1 (a.queue h g).2

section DeviceFields
variable {s t : State} (e : DeviceEffect s t)
include e
theorem DeviceEffect.regs : t.regs = s.regs := by rw [e.frame]
theorem DeviceEffect.reg (r : Reg) : t.reg r = s.reg r := congrArg (·.get r) e.regs
theorem DeviceEffect.pc : t.pc = s.pc := by rw [e.frame]
theorem DeviceEffect.sp : t.sp = s.sp := by rw [e.frame]
theorem DeviceEffect.ex : t.ex = s.ex := by rw [e.frame]
theorem DeviceEffect.pc0 : t.pc0 = s.pc0 := by rw [e.frame]
theorem DeviceEffect.sp0 : t.sp0 = s.sp0 := by rw [e.frame]
theorem DeviceEffect.skip : t.skip = s.skip := by rw [e.frame]
theorem DeviceEffect.ia : t.ia = s.ia := by rw [e.frame]
theorem DeviceEffect.susp : t.susp = s.susp := by rw [e.frame]
theorem DeviceEffect.intQueueCap : t.intQueueCap = s.intQueueCap := by rw [e.frame]
theorem DeviceEffect.reservedExec : t.reservedExec = s.reservedExec := by rw [e.frame]
theorem DeviceEffect.refused : t.refused = s.refused := by rw [e.frame]
theorem DeviceEffect.lines : t.lines = s.lines := by rw [e.frame]
theorem DeviceEffect.devs : t.devs = s.devs := by rw [e.frame]
end DeviceFields

/-- Enqueue appends while there is room and raises QueueOverflow when there is none (R264). -/
theorem enqueue_cases (m : Word) (s : State) :
    (s.intq.length < s.intQueueCap ∧ enqueue m s = .ok () (s.setIntq (s.intq ++ [m]))) ∨
    (s.intQueueCap ≤ s.intq.length ∧ enqueue m s = .raised (s.setFault .queueOverflow)) := by
  unfold enqueue raiseFault
  split
  next h => exact .inl ⟨h, rfl⟩
  next h => exact .inr ⟨Nat.le_of_not_lt h, rfl⟩

theorem enqueue_effect (m : Word) (s : State) : DeviceEffect s (enqueue m s).state := by
  rcases enqueue_cases m s with ⟨h, e⟩ | ⟨h, e⟩ <;> rw [e]
  · exact ⟨rfl, Nat.le_refl _, id, id, fun _ g => ⟨by simp; omega, fun f => by have := g f; omega⟩⟩
  · exact ⟨rfl, Nat.le_refl _, id, id, fun b _ => ⟨b, fun _ => Nat.le_antisymm b h⟩⟩

theorem post_effect (m : Word) (s : State) : DeviceEffect s (post m s).state := by
  unfold post
  split
  · exact .refl s
  · exact enqueue_effect m s

/-- While IA = 0 every request is dropped, the state as if it had never been made (R263). -/
theorem post_disabled (m : Word) {s : State} (h : s.ia = 0) : post m s = .ok () s := if_pos h

theorem serveRequest_effect (q : DeviceRequest) (s : State) : DeviceEffect s (serveRequest q s).state := by
  cases q with
  | post m => exact post_effect m s
  | requestHalt => exact ⟨rfl, Nat.le_refl _, fun _ => rfl, id, fun a b => ⟨a, b⟩⟩
  | addCycles n => exact ⟨rfl, Nat.le_add_right _ _, id, id, fun a b => ⟨a, b⟩⟩
  | rawWrite a v => exact ⟨rfl, Nat.le_refl _, id, wf_write a v, fun a b => ⟨a, b⟩⟩

theorem serveRequests_effect (qs : List DeviceRequest) (s : State) :
    DeviceEffect s (serveRequests qs s).state := by
  induction qs generalizing s with
  | nil => exact .refl s
  | cons q qs ih => exact bind_state DeviceEffect.trans (serveRequest_effect q s) fun _ t _ => ih t

/-- A call to a device changes only what a device may change (R282). -/
theorem callDevice_effect (c : DeviceCall) (s : State) : DeviceEffect s (callDevice c s).state := by
  refine bind_state DeviceEffect.trans
    (DeviceEffect.trans _ (s.logCall c) _ ⟨rfl, Nat.le_refl _, id, id, fun a b => ⟨a, b⟩⟩
      (serveRequests_effect _ _)) fun _ t _ => .refl t

/-! ## The log of calls, and when a call raises -/

theorem serveRequest_calls (q : DeviceRequest) (s : State) : (serveRequest q s).state.calls = s.calls := by
  cases q with
  | post m =>
    simp only [serveRequest, post]
    split
    · rfl
    · rcases enqueue_cases m s with ⟨_, e⟩ | ⟨_, e⟩ <;> rw [e] <;> rfl
  | _ => rfl

theorem serveRequests_calls (qs : List DeviceRequest) (s : State) :
    (serveRequests qs s).state.calls = s.calls := by
  induction qs generalizing s with
  | nil => rfl
  | cons q qs ih =>
    exact bind_state (P := fun a b => b.calls = a.calls) (fun _ _ _ x y => y.trans x) (serveRequest_calls q s)
      fun _ t _ => ih t

/-- A call is logged, once, and its services log nothing. -/
theorem callDevice_calls (c : DeviceCall) (s : State) : (callDevice c s).state.calls = s.calls ++ [c] := by
  have h := serveRequests_calls (Config.deviceReply c s.calls s.ram s.cyc).requests (s.logCall c)
  unfold callDevice
  cases e : serveRequests (Config.deviceReply c s.calls s.ram s.cyc).requests (s.logCall c) <;>
    rw [e] at h <;> simpa using h

/-- A call that goes on gives the word of the device's answer (R58). -/
theorem callDevice_value {c : DeviceCall} {s t : State} {w : Word} (h : callDevice c s = .ok w t) :
    w = (Config.deviceReply c s.calls s.ram s.cyc).value := by
  obtain ⟨_, _, _, g⟩ := bind_eq_ok.mp h
  cases g
  rfl

/-- An operation that goes on leaves FAULT as it was; one that is cut short has set it (R276). -/
def FaultTold {α : Type} (s : State) (r : Res α) : Prop :=
  (∀ v t, r = .ok v t → t.fault = s.fault) ∧ ∀ t, r = .raised t → t.fault = some .queueOverflow

theorem FaultTold.bind {α β : Type} {s : State} {r : Res α} {k : α → State → Res β} (h1 : FaultTold s r)
    (h2 : ∀ v t, r = .ok v t → FaultTold t (k v t)) : FaultTold s (r.bind k) := by
  cases r with
  | ok v t =>
    exact ⟨fun w u e => ((h2 v t rfl).1 w u e).trans (h1.1 v t rfl), (h2 v t rfl).2⟩
  | raised t => exact ⟨fun w u e => (by cases e), fun u e => h1.2 u (by cases e; rfl)⟩

/-- An operation that goes on to a state with the same mark. -/
theorem FaultTold.ok {α : Type} {s t : State} {v : α} (h : t.fault = s.fault) : FaultTold s (Res.ok v t) :=
  ⟨fun w u e => by cases e; exact h, fun u e => by cases e⟩

theorem post_faultTold (m : Word) (s : State) : FaultTold s (post m s) := by
  unfold post
  split
  · exact .ok rfl
  · rcases enqueue_cases m s with ⟨_, e⟩ | ⟨_, e⟩ <;> rw [e]
    · exact .ok rfl
    · exact ⟨fun _ _ e => (by cases e), fun u e => by cases e; rfl⟩

theorem serveRequests_faultTold (qs : List DeviceRequest) (s : State) : FaultTold s (serveRequests qs s) := by
  induction qs generalizing s with
  | nil => exact .ok rfl
  | cons q qs ih =>
    refine FaultTold.bind ?_ fun _ t _ => ih t
    cases q with
    | post m => exact post_faultTold m s
    | _ => exact .ok rfl

theorem callDevice_faultTold (c : DeviceCall) (s : State) : FaultTold s (callDevice c s) :=
  FaultTold.bind (show FaultTold s _ from serveRequests_faultTold _ (s.logCall c)) fun _ _ _ => .ok rfl

/-- While IA = 0 no service of a device raises. -/
theorem serveRequests_disabled (qs : List DeviceRequest) {s : State} (h : s.ia = 0) :
    ∃ t, serveRequests qs s = .ok () t := by
  induction qs generalizing s with
  | nil => exact ⟨s, rfl⟩
  | cons q qs ih =>
    have hq : ∃ t, serveRequest q s = .ok () t ∧ t.ia = 0 := by
      cases q with
      | post m => exact ⟨s, post_disabled m h, h⟩
      | requestHalt => exact ⟨_, rfl, h⟩
      | addCycles n => exact ⟨_, rfl, h⟩
      | rawWrite a v => exact ⟨_, rfl, h⟩
    obtain ⟨t, e, ht⟩ := hq
    obtain ⟨u, eu⟩ := ih ht
    exact ⟨u, by simp [serveRequests, e, eu]⟩

theorem callDevice_disabled (c : DeviceCall) {s : State} (h : s.ia = 0) : ∃ v t, callDevice c s = .ok v t := by
  obtain ⟨t, e⟩ := serveRequests_disabled (Config.deviceReply c s.calls s.ram s.cyc).requests
    (s := s.logCall c) h
  exact ⟨(Config.deviceReply c s.calls s.ram s.cyc).value, t, by simp [callDevice, e]⟩

/-! ## The multiplexer -/

theorem claimant_congr {s t : State} (h : t.lines = s.lines) (a : Word) : t.claimant a = s.claimant a := by
  simp [State.claimant, h]

theorem claimant_unclaimed {s : State} (h : s.lines = Vector.replicate 16 none) (a : Word) :
    s.claimant a = none := by
  simp [State.claimant, h]

theorem memRead_claimed {s : State} {a : Word} {d : DeviceId} (h : s.claimant a = some d) :
    memRead a s = callDevice (.onRead d (offsetOf a)) s := by simp [memRead, h]

theorem memRead_ram {s : State} {a : Word} (h : s.claimant a = none) : memRead a s = .ok (s.rawRead a) s := by
  simp [memRead, h]

theorem memWrite_claimed {s : State} {a v : Word} {d : DeviceId} (h : s.claimant a = some d) :
    memWrite a v s = (callDevice (.onWrite d (offsetOf a) v (s.rawRead a)) s).bind fun _ s => .ok () s := by
  simp [memWrite, h]

theorem memWrite_ram {s : State} {a v : Word} (h : s.claimant a = none) :
    memWrite a v s = .ok () (s.rawWrite a v) := by simp [memWrite, h]

/-- A read changes only what a device may change. -/
theorem memRead_effect (a : Word) (s : State) : DeviceEffect s (memRead a s).state := by
  cases h : s.claimant a with
  | none => rw [memRead_ram h]; exact .refl s
  | some d => rw [memRead_claimed h]; exact callDevice_effect _ _

/-- A write changes only what a device may change: RAM in an unclaimed line, a device call in a claimed one. -/
theorem memWrite_effect (a v : Word) (s : State) : DeviceEffect s (memWrite a v s).state := by
  cases h : s.claimant a with
  | none => rw [memWrite_ram h]; exact ⟨rfl, Nat.le_refl _, id, wf_write a v, fun a b => ⟨a, b⟩⟩
  | some d =>
    rw [memWrite_claimed h]
    exact bind_state DeviceEffect.trans (callDevice_effect _ _) fun _ t _ => .refl t

theorem memRead_faultTold (a : Word) (s : State) : FaultTold s (memRead a s) := by
  cases h : s.claimant a with
  | none => rw [memRead_ram h]; exact .ok rfl
  | some d => rw [memRead_claimed h]; exact callDevice_faultTold _ _

theorem memWrite_faultTold (a v : Word) (s : State) : FaultTold s (memWrite a v s) := by
  cases h : s.claimant a with
  | none => rw [memWrite_ram h]; exact .ok rfl
  | some d => rw [memWrite_claimed h]; exact (callDevice_faultTold _ _).bind fun _ _ _ => .ok rfl

/-! ## RAM itself -/

theorem rawRead_rawWrite_other (s : State) {a x : Word} (v : Word) (h : x ≠ a) :
    (s.rawWrite a v).rawRead x = s.rawRead x :=
  read_write_other s.ram v fun e => h (BitVec.eq_of_toNat_eq e)

theorem rawRead_rawWrite_same {s : State} (a v : Word) (w : Memory.wf s.ram = true) :
    (s.rawWrite a v).rawRead a = v := read_write_same a.toNat v w

/-- A word is read from RAM alone. -/
theorem rawRead_congr {s t : State} (h : t.ram = s.ram) (a : Word) : t.rawRead a = s.rawRead a := by
  simp [State.rawRead, h]

theorem rawWrite_eq (s : State) (a v : Word) :
    s.rawWrite a v = s.setRam (Memory.write s.ram a.toNat v) := rfl

/-! ## Where no line is claimed -/

section Unclaimed
variable {s : State} (h : s.lines = Vector.replicate 16 none)
include h

theorem memRead_unclaimed (a : Word) : memRead a s = .ok (s.rawRead a) s := memRead_ram (claimant_unclaimed h a)

theorem memWrite_unclaimed (a v : Word) : memWrite a v s = .ok () (s.rawWrite a v) :=
  memWrite_ram (claimant_unclaimed h a)

theorem fetch_unclaimed : fetch s = .ok (s.rawRead s.pc) (s.setPc (s.pc + 1)) := by
  simp [fetch, memRead_unclaimed h]

theorem pushWord_unclaimed (v : Word) :
    pushWord v s = .ok () ((s.setSp (s.sp - 1)).rawWrite (s.sp - 1) v) :=
  memWrite_unclaimed (s := s.setSp (s.sp - 1)) h _ _

theorem popWord_unclaimed : popWord s = .ok (s.rawRead s.sp) (s.setSp (s.sp + 1)) := by
  simp [popWord, memRead_unclaimed h]

end Unclaimed

/-- With no device attached, an instruction ends with CYC one higher (R147). -/
theorem retire_noDevices (w : Word) {s : State} (h : s.devs = []) : retire w s = .ok () (s.addCyc 1) := by
  simp [retire, h, tickAll]

/-- Ticking changes only what a device may change. -/
theorem tickAll_effect (w : Word) (ds : List DeviceId) (s : State) : DeviceEffect s (tickAll w ds s).state := by
  induction ds generalizing s with
  | nil => exact .refl s
  | cons d ds ih => exact bind_state DeviceEffect.trans (callDevice_effect _ _) fun _ t _ => ih t

/-- A tick that raises has set FAULT; ticks that go on leave it. -/
theorem tickAll_faultTold (w : Word) (ds : List DeviceId) (s : State) : FaultTold s (tickAll w ds s) := by
  induction ds generalizing s with
  | nil => exact .ok rfl
  | cons d ds ih => exact (callDevice_faultTold _ _).bind fun _ t _ => ih t

/-- When no tick raises, every device of the list is called once, in order (R148). -/
theorem tickAll_calls (w : Word) (ds : List DeviceId) {s t : State} (h : tickAll w ds s = .ok () t) :
    t.calls = s.calls ++ ds.map (DeviceCall.onTick · w) := by
  induction ds generalizing s with
  | nil => cases h; simp
  | cons d ds ih =>
    obtain ⟨v, u, e, g⟩ := bind_eq_ok.mp h
    have hc := callDevice_calls (.onTick d w) s
    rw [e] at hc
    rw [ih g, show u.calls = _ from hc]
    simp

end Sys2Proof.Machine
end

