-- ==== Sys2Proof/Laws/Operands.lean ====
section
/-! SUPPORT. What the operand resolver and the operand frames can do: on any machine, and in closed form where no line is
claimed. -/

namespace Sys2Proof.Machine
open Sys2Proof

/-! ## What every operation of a step keeps -/

/-- The invariant's ingredients, as a relation between the states before and after: the configuration is unchanged, CYC
does not fall, HALT is not cleared, RAM stays canonical, the queue within its capacity, RESERVED_EXEC only with HALT. -/
structure Keeps (s t : State) : Prop where
  lines : t.lines = s.lines
  devs : t.devs = s.devs
  cap : t.intQueueCap = s.intQueueCap
  cyc_le : s.cyc ≤ t.cyc
  halt_mono : s.halt = true → t.halt = true
  ram_wf : Memory.wf s.ram = true → Memory.wf t.ram = true
  queue : s.intq.length ≤ s.intQueueCap → (s.fault.isSome = true → s.intq.length = s.intQueueCap) →
    t.intq.length ≤ t.intQueueCap ∧ (t.fault.isSome = true → t.intq.length = t.intQueueCap)
  reserved : (s.reservedExec = true → s.halt = true) → t.reservedExec = true → t.halt = true

theorem Keeps.refl (s : State) : Keeps s s :=
  ⟨rfl, rfl, rfl, Nat.le_refl _, id, id, fun a b => ⟨a, b⟩, id⟩

theorem Keeps.trans (s t u : State) (a : Keeps s t) (b : Keeps t u) : Keeps s u where
  lines := b.lines.trans a.lines
  devs := b.devs.trans a.devs
  cap := b.cap.trans a.cap
  cyc_le := Nat.le_trans a.cyc_le b.cyc_le
  halt_mono h := b.halt_mono (a.halt_mono h)
  ram_wf h := b.ram_wf (a.ram_wf h)
  queue h g := b.queue (a.queue h g).1 (a.queue h g).2
  reserved h := b.reserved (a.reserved h)

/-- A device keeps them. -/
theorem DeviceEffect.keeps {s t : State} (e : DeviceEffect s t) : Keeps s t :=
  ⟨e.lines, e.devs, e.intQueueCap, e.cyc_le, e.halt_mono, e.ram_wf, e.queue,
    fun h g => e.halt_mono (h (e.reservedExec ▸ g))⟩

/-- The invariant passes along `Keeps`. -/
theorem Keeps.inv {s t : State} (k : Keeps s t) (h : s.Inv) : t.Inv := by
  obtain ⟨h1, h2, h3, h4, h5⟩ := h
  refine ⟨k.ram_wf h1, (k.queue h2 h4).1, k.reserved h3, (k.queue h2 h4).2, ?_⟩
  simpa [State.LinesConsistent, k.lines, k.devs] using h5

/-! ## Resolving and reading -/

/-- Everything resolving and reading operands can change: PC (trailing words), SP (PUSH, POP), and what a device may
change. -/
structure DecodeEffect (s t : State) : Prop where
  frame : t =
    { s with pc := t.pc, sp := t.sp, intq := t.intq, halt := t.halt, fault := t.fault, cyc := t.cyc, ram := t.ram, calls := t.calls }
  keeps : Keeps s t

theorem DecodeEffect.refl (s : State) : DecodeEffect s s := ⟨rfl, .refl s⟩

theorem DecodeEffect.trans (s t u : State) (a : DecodeEffect s t) (b : DecodeEffect t u) : DecodeEffect s u :=
  ⟨by rw [b.frame, a.frame], a.keeps.trans _ _ _ b.keeps⟩

theorem DeviceEffect.decode {s t : State} (e : DeviceEffect s t) : DecodeEffect s t :=
  ⟨by rw [e.frame], e.keeps⟩

section DecodeFields
variable {s t : State} (e : DecodeEffect s t)
include e
theorem DecodeEffect.regs : t.regs = s.regs := by rw [e.frame]
theorem DecodeEffect.reg (r : Reg) : t.reg r = s.reg r := congrArg (·.get r) e.regs
theorem DecodeEffect.ex : t.ex = s.ex := by rw [e.frame]
theorem DecodeEffect.pc0 : t.pc0 = s.pc0 := by rw [e.frame]
theorem DecodeEffect.sp0 : t.sp0 = s.sp0 := by rw [e.frame]
theorem DecodeEffect.skip : t.skip = s.skip := by rw [e.frame]
theorem DecodeEffect.ia : t.ia = s.ia := by rw [e.frame]
theorem DecodeEffect.susp : t.susp = s.susp := by rw [e.frame]
theorem DecodeEffect.reservedExec : t.reservedExec = s.reservedExec := by rw [e.frame]
theorem DecodeEffect.refused : t.refused = s.refused := by rw [e.frame]
end DecodeFields

theorem setPc_decode (s : State) (v : Word) : DecodeEffect s (s.setPc v) :=
  ⟨rfl, rfl, rfl, rfl, Nat.le_refl _, id, id, fun a b => ⟨a, b⟩, id⟩

theorem setSp_decode (s : State) (v : Word) : DecodeEffect s (s.setSp v) :=
  ⟨rfl, rfl, rfl, rfl, Nat.le_refl _, id, id, fun a b => ⟨a, b⟩, id⟩

theorem fetch_effect (s : State) : DecodeEffect s (fetch s).state :=
  bind_state DecodeEffect.trans (memRead_effect _ _).decode fun _ t _ => setPc_decode t _

theorem resolve_effect (o : Operand) (s : State) : DecodeEffect s (resolve o s).state := by
  cases o with
  | push | pop => exact setSp_decode s _
  | regOff _ | pick | nextInd | nextLit =>
    exact bind_state DecodeEffect.trans (fetch_effect s) fun _ t _ => .refl t
  | _ => exact .refl s

theorem readLoc_effect (l : Loc) (s : State) : DeviceEffect s (readLoc l s).state := by
  cases l with
  | mem a => exact memRead_effect a s
  | _ => exact .refl s

/-- A register location comes from that register's own class, and nowhere else. -/
theorem resolve_loc {o : Operand} {s t : State} {l : Loc} (h : resolve o s = .ok l t) :
    match l with
    | .reg r => o = .reg r
    | .pc => o = .pc
    | .sp => o = .sp
    | .ex => o = .ex
    | .mem _ => True
    | .lit _ => True := by
  cases o with
  | regOff r =>
    obtain ⟨w, u, _, g⟩ := bind_eq_ok.mp h
    cases g; trivial
  | pick | nextInd | nextLit =>
    obtain ⟨w, u, _, g⟩ := bind_eq_ok.mp h
    cases g; trivial
  | _ => cases h; first | rfl | trivial

theorem fetch_ok {s t : State} {w : Word} (h : fetch s = .ok w t) : t.pc = s.pc + 1 := by
  obtain ⟨v, u, e, g⟩ := bind_eq_ok.mp h
  have d := memRead_effect s.pc s
  rw [e] at d
  cases g
  exact congrArg (· + 1) d.pc

theorem fetch_sp (s : State) : (fetch s).state.sp = s.sp :=
  bind_state (P := fun s t => t.sp = s.sp) (fun _ _ _ x y => y.trans x) (memRead_effect _ _).sp fun _ _ _ => rfl

/-- A resolved operand has moved PC past its trailing word, if its class takes one (R85, R124). -/
theorem resolve_pc {o : Operand} {s t : State} {l : Loc} (h : resolve o s = .ok l t) :
    t.pc = s.pc + BitVec.ofNat 16 o.takesWord.toNat := by
  cases o with
  | regOff _ | pick | nextInd | nextLit =>
    obtain ⟨w, u, e, g⟩ := bind_eq_ok.mp h
    cases g
    exact fetch_ok e
  | _ => cases h; simp [Operand.takesWord]

/-- Only PUSH and POP move SP (R114, R115). -/
theorem resolve_sp {o : Operand} (s : State) (hp : o ≠ .push) (hq : o ≠ .pop) : (resolve o s).state.sp = s.sp := by
  cases o with
  | push => exact absurd rfl hp
  | pop => exact absurd rfl hq
  | regOff _ | pick | nextInd | nextLit =>
    exact bind_state (P := fun s t => t.sp = s.sp) (fun _ _ _ x y => y.trans x) (fetch_sp s) fun _ _ _ => rfl
  | _ => rfl

theorem fetch_faultTold (s : State) : FaultTold s (fetch s) :=
  (memRead_faultTold _ _).bind fun _ _ _ => .ok rfl

theorem resolve_faultTold (o : Operand) (s : State) : FaultTold s (resolve o s) := by
  cases o with
  | regOff _ | pick | nextInd | nextLit => exact (fetch_faultTold s).bind fun _ _ _ => .ok rfl
  | _ => exact .ok rfl

theorem readLoc_faultTold (l : Loc) (s : State) : FaultTold s (readLoc l s) := by
  cases l with
  | mem a => exact memRead_faultTold a s
  | _ => exact .ok rfl

theorem writeLoc_faultTold (l : Loc) (v : Word) (s : State) : FaultTold s (writeLoc l v s) := by
  cases l with
  | mem a => exact memWrite_faultTold a v s
  | _ => exact .ok rfl

/-- A write keeps the invariant's ingredients. -/
theorem writeLoc_keeps (l : Loc) (v : Word) (s : State) : Keeps s (writeLoc l v s).state := by
  cases l with
  | mem a => exact (memWrite_effect a v s).keeps
  | _ => exact ⟨rfl, rfl, rfl, Nat.le_refl _, id, id, fun a b => ⟨a, b⟩, id⟩

/-- A basic instruction either is cut short in its decode or reaches its effect, in a state that only the decode changed,
with b's location. -/
theorem withBasic_cases (b a : Operand) (s : State) (k : Loc → Word → Word → State → Res Unit) :
    (∃ t, withBasic b a s k = .raised t ∧ DecodeEffect s t ∧ t.fault = some .queueOverflow ∧
      (b ≠ .push → b ≠ .pop → a ≠ .push → a ≠ .pop → t.sp = s.sp)) ∨
    ∃ bl bv av u s1 s2 al, withBasic b a s k = k bl bv av u ∧ DecodeEffect s u ∧ u.fault = s.fault ∧
      resolve b s = .ok bl s1 ∧ resolve a s1 = .ok al s2 ∧ u.pc = s2.pc ∧ u.sp = s2.sp := by
  unfold withBasic
  have e1 := resolve_effect b s
  have f1 := resolve_faultTold b s
  have p1 := resolve_sp (o := b) s
  cases h1 : resolve b s with
  | raised t => rw [h1] at e1 p1; exact .inl ⟨t, rfl, e1, f1.2 t h1, fun x y _ _ => p1 x y⟩
  | ok bl s1 =>
    rw [h1] at e1 p1
    have e2 := resolve_effect a s1
    have f2 := resolve_faultTold a s1
    have p2 := resolve_sp (o := a) s1
    cases h2 : resolve a s1 with
    | raised t =>
      rw [h2] at e2 p2
      exact .inl ⟨t, by simp [h2], e1.trans _ _ _ e2, f2.2 t h2, fun x y z w => (p2 z w).trans (p1 x y)⟩
    | ok al s2 =>
      rw [h2] at e2 p2
      have e3 := readLoc_effect bl s2
      have f3 := readLoc_faultTold bl s2
      cases h3 : readLoc bl s2 with
      | raised t =>
        rw [h3] at e3
        exact .inl ⟨t, by simp [h2, h3], (e1.trans _ _ _ e2).trans _ _ _ e3.decode, f3.2 t h3,
          fun x y z w => e3.sp.trans ((p2 z w).trans (p1 x y))⟩
      | ok bv s3 =>
        rw [h3] at e3
        have e4 := readLoc_effect al s3
        have f4 := readLoc_faultTold al s3
        cases h4 : readLoc al s3 with
        | raised t =>
          rw [h4] at e4
          exact .inl ⟨t, by simp [h2, h3, h4], ((e1.trans _ _ _ e2).trans _ _ _ e3.decode).trans _ _ _ e4.decode,
            f4.2 t h4, fun x y z w => e4.sp.trans (e3.sp.trans ((p2 z w).trans (p1 x y)))⟩
        | ok av s4 =>
          rw [h4] at e4
          refine .inr ⟨bl, bv, av, s4, s1, s2, al, by simp [h2, h3, h4],
            ((e1.trans _ _ _ e2).trans _ _ _ e3.decode).trans _ _ _ e4.decode, ?_, rfl, h2, ?_, ?_⟩
          · rw [f4.1 _ _ h4, f3.1 _ _ h3, f2.1 _ _ h2, f1.1 _ _ h1]
          · exact e4.pc.trans e3.pc
          · exact e4.sp.trans e3.sp

/-- The same of a special instruction. -/
theorem withSpecial_cases (a : Operand) (s : State) (k : Loc → Word → State → Res Unit) :
    (∃ t, withSpecial a s k = .raised t ∧ DecodeEffect s t ∧ t.fault = some .queueOverflow ∧
      (a ≠ .push → a ≠ .pop → t.sp = s.sp)) ∨
    ∃ al av u s1, withSpecial a s k = k al av u ∧ DecodeEffect s u ∧ u.fault = s.fault ∧
      resolve a s = .ok al s1 ∧ u.pc = s1.pc ∧ u.sp = s1.sp := by
  unfold withSpecial
  have e1 := resolve_effect a s
  have f1 := resolve_faultTold a s
  have p1 := resolve_sp (o := a) s
  cases h1 : resolve a s with
  | raised t => rw [h1] at e1 p1; exact .inl ⟨t, rfl, e1, f1.2 t h1, p1⟩
  | ok al s1 =>
    rw [h1] at e1 p1
    have e2 := readLoc_effect al s1
    have f2 := readLoc_faultTold al s1
    cases h2 : readLoc al s1 with
    | raised t =>
      rw [h2] at e2
      exact .inl ⟨t, by simp [h2], e1.trans _ _ _ e2.decode, f2.2 t h2, fun x y => e2.sp.trans (p1 x y)⟩
    | ok av s2 =>
      rw [h2] at e2
      exact .inr ⟨al, av, s2, s1, by simp [h2], e1.trans _ _ _ e2.decode,
        (f2.1 _ _ h2).trans (f1.1 _ _ h1), rfl, e2.pc, e2.sp⟩

/-! ## Where no line is claimed -/

/-- Resolving leaves the line table. -/
theorem plainResolve_lines (o : Operand) (s : State) : (plainResolve o s).2.lines = s.lines := by
  cases o <;> rfl

theorem basicOperands_lines (s : State) (b a : Operand) : (s.basicOperands b a).after.lines = s.lines :=
  (plainResolve_lines a _).trans (plainResolve_lines b s)

theorem specialOperand_lines (s : State) (a : Operand) : (s.specialOperand a).after.lines = s.lines :=
  plainResolve_lines a s

section Unclaimed
variable {s : State} (h : s.lines = Vector.replicate 16 none)
include h

theorem resolve_unclaimed (o : Operand) : resolve o s = .ok (plainResolve o s).1 (plainResolve o s).2 := by
  cases o <;> simp [resolve, plainResolve, fetch_unclaimed h, State.reg]

theorem readLoc_unclaimed (l : Loc) : readLoc l s = .ok (plainRead l s) s := by
  cases l <;> simp [readLoc, plainRead, memRead_unclaimed h]

theorem writeLoc_unclaimed (l : Loc) (v : Word) : writeLoc l v s = .ok () (plainWrite l v s) := by
  cases l <;> simp [writeLoc, plainWrite, memWrite_unclaimed h]

/-- A basic instruction reaches its effect with its operands in closed form. -/
theorem withBasic_unclaimed (b a : Operand) (k : Loc → Word → Word → State → Res Unit) :
    withBasic b a s k = k (s.basicOperands b a).loc (s.basicOperands b a).bv (s.basicOperands b a).av
      (s.basicOperands b a).after := by
  have h1 := (plainResolve_lines b s).trans h
  have h2 := (plainResolve_lines a (plainResolve b s).2).trans h1
  simp [withBasic, resolve_unclaimed h, resolve_unclaimed h1, readLoc_unclaimed h2, State.basicOperands]

/-- A special instruction reaches its effect with its operand in closed form. -/
theorem withSpecial_unclaimed (a : Operand) (k : Loc → Word → State → Res Unit) :
    withSpecial a s k = k (s.specialOperand a).loc (s.specialOperand a).av (s.specialOperand a).after := by
  have h1 := (plainResolve_lines a s).trans h
  simp [withSpecial, resolve_unclaimed h, readLoc_unclaimed h1, State.specialOperand]

theorem produce_unclaimed (b a : Operand) (f : Word → Word → Word) :
    produce b a s f = .next (plainWrite (s.basicOperands b a).loc
      (f (s.basicOperands b a).bv (s.basicOperands b a).av) (s.basicOperands b a).after) := by
  rw [produce, withBasic_unclaimed h, writeLoc_unclaimed ((basicOperands_lines s b a).trans h), outcome_ok]

theorem produceEx_unclaimed (b a : Operand) (f : Word → Word → Word → Word × Word) :
    produceEx b a s f = .next ((plainWrite (s.basicOperands b a).loc
      (f (s.basicOperands b a).bv (s.basicOperands b a).av (s.basicOperands b a).after.ex).1
        (s.basicOperands b a).after).setEx
      (f (s.basicOperands b a).bv (s.basicOperands b a).av (s.basicOperands b a).after.ex).2) := by
  rw [produceEx, withBasic_unclaimed h, writeLoc_unclaimed ((basicOperands_lines s b a).trans h), bind_ok, outcome_ok]

theorem conditional_unclaimed (b a : Operand) (cond : Word → Word → Bool) :
    conditional b a s cond = .next (if cond (s.basicOperands b a).bv (s.basicOperands b a).av
      then (s.basicOperands b a).after else (s.basicOperands b a).after.setSkip true) := by
  rw [conditional, withBasic_unclaimed h, outcome_ok]

end Unclaimed

/-- EX as resolving leaves it: as it was. -/
theorem plainResolve_ex (o : Operand) (s : State) : (plainResolve o s).2.ex = s.ex := by cases o <;> rfl

theorem basicOperands_ex (s : State) (b a : Operand) : (s.basicOperands b a).after.ex = s.ex :=
  (plainResolve_ex a _).trans (plainResolve_ex b s)

end Sys2Proof.Machine
end

