-- ==== Sys2Proof/Laws/Step.lean ====
section
/-! SUPPORT. The choice of a step, and each kind of step in closed form. -/

namespace Sys2Proof.Machine
open Sys2Proof

theorem step_eq (s : State) : step s = nextStep s := rfl

theorem stopped_eq_false {s : State} : s.stopped = false ↔ s.halt = false ∧ s.fault = none ∧ s.refused = none := by
  simp [State.stopped, and_assoc]

/-- A core that is not stopped takes the step `runningStep` chooses (R140). -/
theorem step_running {s : State} (h : s.stopped = false) : step s = runningStep s := by
  obtain ⟨h1, h2, h3⟩ := stopped_eq_false.mp h
  simp [step, nextStep, h1, h2, h3]

/-- A stopped core answers a fault or a refusal (R140). -/
theorem step_stopped {s : State} (h : s.stopped = true) : (∃ f, step s = .fault f) ∨ ∃ r, step s = .refused r := by
  simp only [step, nextStep]
  split
  · exact .inl ⟨_, rfl⟩
  · exact .inr ⟨_, rfl⟩
  · exact .inl ⟨_, rfl⟩
  · next h1 h2 h3 => simp [State.stopped, h1, h2, h3] at h

theorem step_skip {s : State} (h : s.stopped = false) (k : s.skip = true) : step s = (skipStep s).outcome := by
  rw [step_running h, runningStep, if_pos k]

theorem step_dispatch {s : State} (h : s.stopped = false) (k : s.skip = false) (d : s.dispatchEligible = true) :
    step s = (dispatch s).outcome := by
  rw [step_running h, runningStep, k, d]
  rfl

theorem step_exec {s : State} (h : s.Executes) : step s = execStep s := by
  obtain ⟨h1, h2, h3⟩ := h
  rw [step_running h1, runningStep, h2, h3]
  rfl

/-- An instruction step where no line is claimed (R141-R148). -/
theorem execStep_unclaimed {s : State} (h : s.lines = Vector.replicate 16 none) :
    execStep s = finishStep (s.rawRead s.pc) (exec (decode (s.rawRead s.pc)) (s.captureShadows.setPc (s.pc + 1))) := by
  have e : fetch s.captureShadows = .ok (s.rawRead s.pc) (s.captureShadows.setPc (s.pc + 1)) :=
    fetch_unclaimed (s := s.captureShadows) h
  rw [execStep, e]

/-- A skip step where no line is claimed (R143). -/
theorem skipStep_unclaimed {s : State} (h : s.lines = Vector.replicate 16 none) :
    skipStep s = .ok () ((s.captureShadows.setPc (s.pc + BitVec.ofNat 16 (wordLength (s.rawRead s.pc)))).setSkip false) := by
  have e : memRead s.pc s.captureShadows = .ok (s.rawRead s.pc) s.captureShadows :=
    memRead_unclaimed (s := s.captureShadows) h s.pc
  rw [skipStep, e]
  rfl

/-- Interrupt entry where no line is claimed (R268). -/
theorem enterHandler_unclaimed {s : State} (h : s.lines = Vector.replicate 16 none) (m : Word) :
    enterHandler m s = .ok () (((((((s.setSp (s.sp - 1)).rawWrite (s.sp - 1) s.pc).setSp (s.sp - 1 - 1)).rawWrite
      (s.sp - 1 - 1) (s.reg .a)).setReg .a m).setPc s.ia).setSusp true) := by
  have h2 : ((s.setSp (s.sp - 1)).rawWrite (s.sp - 1) s.pc).lines = Vector.replicate 16 none := h
  rw [enterHandler, pushWord_unclaimed h, bind_ok, pushWord_unclaimed h2]
  rfl

/-- The return from interrupt where no line is claimed (R225). -/
theorem returnFromInterrupt_unclaimed {s : State} (h : s.lines = Vector.replicate 16 none) :
    returnFromInterrupt s = .ok () (((((s.setSp (s.sp + 1)).setReg .a (s.rawRead s.sp)).setSp (s.sp + 1 + 1)).setPc
      (s.rawRead (s.sp + 1))).setSusp false) := by
  have h2 : ((s.setSp (s.sp + 1)).setReg .a (s.rawRead s.sp)).lines = Vector.replicate 16 none := h
  rw [returnFromInterrupt, popWord_unclaimed h, bind_ok, popWord_unclaimed h2]
  rfl

end Sys2Proof.Machine
end

