-- ==== Sys2Proof/Laws/Exec.lean ====
section
/-! SUPPORT. One principle for claims over all instructions: a relation between states that every primitive operation
respects, every meaning respects. -/

namespace Sys2Proof.Machine
open Sys2Proof

/-- A transitive relation that the primitive operations of a meaning respect: changes of registers and flags, a read and a
write through the multiplexer, a post, and setting HALT. -/
structure Respects (P : State → State → Prop) : Prop where
  trans : ∀ s t u, P s t → P t u → P s u
  plain : ∀ (s : State) (regs : Regs) (pc sp ex : Word) (skip : Bool) (ia : Word) (susp : Bool) (refused : Option RefuseReason),
    P s { s with regs := regs, pc := pc, sp := sp, ex := ex, skip := skip, ia := ia, susp := susp, refused := refused }
  read : ∀ (a : Word) (s : State), P s (memRead a s).state
  write : ∀ (a v : Word) (s : State), P s (memWrite a v s).state
  post : ∀ (m : Word) (s : State), P s (post m s).state
  halt : ∀ (s : State) (r : Bool), (s.reservedExec = true → r = true) → P s { s with halt := true, reservedExec := r }

namespace Respects
variable {P : State → State → Prop} (p : Respects P)
include p

theorem refl (s : State) : P s s := p.plain s s.regs s.pc s.sp s.ex s.skip s.ia s.susp s.refused

theorem bind {α β : Type} {s : State} {r : Res α} {k : α → State → Res β} (h1 : P s r.state)
    (h2 : ∀ v t, P t (k v t).state) : P s (r.bind k).state :=
  bind_state p.trans h1 fun v t _ => h2 v t

theorem setPc (s : State) (v : Word) : P s (s.setPc v) := p.plain s s.regs v s.sp s.ex s.skip s.ia s.susp s.refused
theorem setSp (s : State) (v : Word) : P s (s.setSp v) := p.plain s s.regs s.pc v s.ex s.skip s.ia s.susp s.refused
theorem setEx (s : State) (v : Word) : P s (s.setEx v) := p.plain s s.regs s.pc s.sp v s.skip s.ia s.susp s.refused
theorem setReg (s : State) (r : Reg) (v : Word) : P s (s.setReg r v) :=
  p.plain s (s.regs.set r v) s.pc s.sp s.ex s.skip s.ia s.susp s.refused

theorem fetch (s : State) : P s (fetch s).state := p.bind (p.read _ _) fun _ t => p.setPc t _

theorem resolve (o : Operand) (s : State) : P s (resolve o s).state := by
  cases o with
  | push | pop => exact p.setSp s _
  | regOff _ | pick | nextInd | nextLit => exact p.bind (p.fetch s) fun _ t => p.refl t
  | _ => exact p.refl s

theorem readLoc (l : Loc) (s : State) : P s (readLoc l s).state := by
  cases l with
  | mem a => exact p.read a s
  | _ => exact p.refl s

theorem writeLoc (l : Loc) (v : Word) (s : State) : P s (writeLoc l v s).state := by
  cases l with
  | mem a => exact p.write a v s
  | reg r => exact p.setReg s r v
  | pc => exact p.setPc s v
  | sp => exact p.setSp s v
  | ex => exact p.setEx s v
  | lit _ => exact p.refl s

theorem withBasic (b a : Operand) (s : State) {k : Loc → Word → Word → State → Res Unit}
    (h : ∀ bl bv av u, P u (k bl bv av u).state) : P s (withBasic b a s k).state :=
  p.bind (p.resolve b s) fun _ t => p.bind (p.resolve a t) fun _ t => p.bind (p.readLoc _ t) fun _ t =>
    p.bind (p.readLoc _ t) fun _ t => h _ _ _ t

theorem withSpecial (a : Operand) (s : State) {k : Loc → Word → State → Res Unit} (h : ∀ al av u, P u (k al av u).state) :
    P s (withSpecial a s k).state :=
  p.bind (p.resolve a s) fun _ t => p.bind (p.readLoc _ t) fun _ t => h _ _ t

theorem produce (b a : Operand) {s t : State} {f : Word → Word → Word} (h : produce b a s f = .next t) : P s t := by
  rw [← outcome_eq_next.mp h]
  exact p.withBasic b a s fun _ _ _ u => p.writeLoc _ _ u

theorem produceEx (b a : Operand) {s t : State} {f : Word → Word → Word → Word × Word} (h : produceEx b a s f = .next t) :
    P s t := by
  rw [← outcome_eq_next.mp h]
  exact p.withBasic b a s fun _ _ _ u => p.bind (p.writeLoc _ _ u) fun _ t => p.setEx t _

theorem conditional (b a : Operand) {s t : State} {f : Word → Word → Bool} (h : conditional b a s f = .next t) : P s t := by
  rw [← outcome_eq_next.mp h]
  refine p.withBasic b a s fun _ bv av u => ?_
  rw [state_ok]
  split
  · exact p.refl u
  · exact p.plain u u.regs u.pc u.sp u.ex true u.ia u.susp u.refused

theorem bumpIJ (d : Word) (s : State) : P s (bumpIJ d s) := p.trans _ _ _ (p.setReg s _ _) (p.setReg _ _ _)

theorem setAndBump (b a : Operand) (d : Word) {s t : State} (h : setAndBump b a s d = .next t) : P s t := by
  rw [← outcome_eq_next.mp h]
  exact p.withBasic b a s fun _ _ _ u => p.bind (p.writeLoc _ _ u) fun _ t => p.bumpIJ d t

theorem reservedHalt (s : State) : P s (reservedHalt s).state := p.halt s true fun _ => rfl

theorem reservedBasic (b a : Operand) {s t : State} (h : reservedBasic b a s = .next t) : P s t := by
  rw [← outcome_eq_next.mp h]
  exact p.bind (p.resolve b s) fun _ t => p.bind (p.resolve a t) fun _ t => p.reservedHalt t

theorem reservedSpecial (a : Operand) {s t : State} (h : reservedSpecial a s = .next t) : P s t := by
  rw [← outcome_eq_next.mp h]
  exact p.bind (p.resolve a s) fun _ t => p.reservedHalt t

theorem pushWord (v : Word) (s : State) : P s (pushWord v s).state := p.trans _ _ _ (p.setSp s _) (p.write _ _ _)

theorem popWord (s : State) : P s (popWord s).state := p.bind (p.read _ _) fun _ t => p.setSp t _

theorem enterHandler (m : Word) (s : State) : P s (enterHandler m s).state :=
  p.bind (p.pushWord _ s) fun _ t => p.bind (p.pushWord _ t) fun _ u =>
    p.plain u (u.regs.set .a m) u.ia u.sp u.ex u.skip u.ia true u.refused

theorem returnFromInterrupt (s : State) : P s (returnFromInterrupt s).state :=
  p.bind (p.popWord s) fun v t => p.trans _ _ _ (p.setReg t .a v) (p.bind (p.popWord _) fun w u =>
    p.plain u u.regs w u.sp u.ex u.skip u.ia false u.refused)

theorem special (a : Operand) {s t : State} {k : Loc → Word → State → Res Unit} (h : (Machine.withSpecial a s k).outcome = .next t)
    (e : ∀ al av u, P u (k al av u).state) : P s t := by
  rw [← outcome_eq_next.mp h]
  exact p.withSpecial a s e

/-- Every meaning respects the relation. -/
theorem exec (i : Instr) {s t : State} (h : exec i s = .next t) : P s t := by
  cases i with
  | set b a => exact p.produce b a (show execSet b a s = _ from h)
  | mod b a => exact p.produce b a (show execMod b a s = _ from h)
  | mdi b a => exact p.produce b a (show execMdi b a s = _ from h)
  | and b a => exact p.produce b a (show execAnd b a s = _ from h)
  | bor b a => exact p.produce b a (show execBor b a s = _ from h)
  | xor b a => exact p.produce b a (show execXor b a s = _ from h)
  | add b a => exact p.produceEx b a (show execAdd b a s = _ from h)
  | sub b a => exact p.produceEx b a (show execSub b a s = _ from h)
  | mul b a => exact p.produceEx b a (show execMul b a s = _ from h)
  | mli b a => exact p.produceEx b a (show execMli b a s = _ from h)
  | div b a => exact p.produceEx b a (show execDiv b a s = _ from h)
  | dvi b a => exact p.produceEx b a (show execDvi b a s = _ from h)
  | shr b a => exact p.produceEx b a (show execShr b a s = _ from h)
  | asr b a => exact p.produceEx b a (show execAsr b a s = _ from h)
  | shl b a => exact p.produceEx b a (show execShl b a s = _ from h)
  | adx b a => exact p.produceEx b a (show execAdx b a s = _ from h)
  | sbx b a => exact p.produceEx b a (show execSbx b a s = _ from h)
  | ifb b a => exact p.conditional b a (show execIfb b a s = _ from h)
  | ifc b a => exact p.conditional b a (show execIfc b a s = _ from h)
  | ife b a => exact p.conditional b a (show execIfe b a s = _ from h)
  | ifn b a => exact p.conditional b a (show execIfn b a s = _ from h)
  | ifg b a => exact p.conditional b a (show execIfg b a s = _ from h)
  | ifa b a => exact p.conditional b a (show execIfa b a s = _ from h)
  | ifl b a => exact p.conditional b a (show execIfl b a s = _ from h)
  | ifu b a => exact p.conditional b a (show execIfu b a s = _ from h)
  | reservedBasic18 b a | reservedBasic19 b a | reservedBasic1C b a | reservedBasic1D b a => exact p.reservedBasic b a h
  | sti b a => exact p.setAndBump b a 1 h
  | std b a => exact p.setAndBump b a (-1) (show execStd b a s = _ from h)
  | jsr a => exact p.special a h fun _ av u => p.bind (p.pushWord _ u) fun _ t => p.setPc t av
  | hcf a => exact p.special a h fun _ _ u => p.halt u u.reservedExec id
  | int a => exact p.special a h fun _ av u => p.post av u
  | iag a => exact p.special a h fun al _ u => p.writeLoc al u.ia u
  | ias a => exact p.special a h fun _ av u => p.plain u u.regs u.pc u.sp u.ex u.skip av u.susp u.refused
  | iaq a => exact p.special a h fun _ av u => p.plain u u.regs u.pc u.sp u.ex u.skip u.ia (av != 0) u.refused
  | rfi a => exact p.special a h fun _ _ u => p.returnFromInterrupt u
  | hwn a | hwq a | hwi a => cases h; exact p.plain s s.regs s.pc s.sp s.ex s.skip s.ia s.susp _
  | _ a => exact p.reservedSpecial a h

end Respects

/-- Every instruction answers a next state. -/
theorem exec_next (i : Instr) (s : State) : ∃ t, exec i s = .next t := by cases i <;> exact ⟨_, rfl⟩

/-- The invariant's ingredients are respected. -/
theorem keeps_respected : Respects Keeps where
  trans := Keeps.trans
  plain _ _ _ _ _ _ _ _ _ := ⟨rfl, rfl, rfl, Nat.le_refl _, id, id, fun a b => ⟨a, b⟩, id⟩
  read a s := (memRead_effect a s).keeps
  write a v s := (memWrite_effect a v s).keeps
  post m s := (post_effect m s).keeps
  halt _ _ _ := ⟨rfl, rfl, rfl, Nat.le_refl _, fun _ => rfl, id, fun a b => ⟨a, b⟩, fun _ _ => rfl⟩

/-- No meaning ticks a device: the calls it makes are reads and writes (R148). -/
theorem ticks_respected : Respects fun s t => t.ticks = s.ticks where
  trans _ _ _ a b := b.trans a
  plain _ _ _ _ _ _ _ _ _ := rfl
  read a s := by
    cases h : s.claimant a with
    | none => rw [memRead_ram h]; rfl
    | some d => rw [memRead_claimed h, State.ticks, callDevice_calls]; simp [State.ticks]
  write a v s := by
    cases h : s.claimant a with
    | none => rw [memWrite_ram h]; rfl
    | some d =>
      rw [memWrite_claimed h]
      refine bind_state (P := fun s t => t.ticks = s.ticks) (fun _ _ _ a b => b.trans a) ?_ fun _ _ _ => rfl
      rw [State.ticks, callDevice_calls]
      simp [State.ticks]
  post m s := by
    unfold post
    split
    · rfl
    · rcases enqueue_cases m s with ⟨_, e⟩ | ⟨_, e⟩ <;> rw [e] <;> rfl
  halt _ _ _ := rfl

end Sys2Proof.Machine
end

