-- ==== Sys2Proof/Laws/PerInstr.lean ====
section
/-! SUPPORT. Facts about every instruction as syntax, one lemma per constructor. -/

namespace Sys2Proof

/-- The length read from an instruction's word (R87) is one plus its trailing words (R80). -/
def Laws.LengthOfWord.Statement (i : Instr) : Prop := i.wellFormed = true → wordLength (encode i) = i.length

theorem lengthOfWord_basic (i : Instr) (o : BitVec 5) (b a : Operand) (e : i.format = .basic o b a) (h : o ≠ 0) :
    Laws.LengthOfWord.Statement i := by
  intro w
  simp only [Instr.wellFormed, e, Bool.and_eq_true] at w
  simp only [encode, Instr.length, Instr.trailing, e]
  exact wordLength_basic a b o h w.2 w.1

theorem lengthOfWord_special (i : Instr) (s : BitVec 5) (a : Operand) (e : i.format = .special s a) :
    Laws.LengthOfWord.Statement i := by
  intro w
  simp only [Instr.wellFormed, e] at w
  simp only [encode, Instr.length, Instr.trailing, e]
  exact wordLength_special a s w

theorem Laws.LengthOfWord.set (b a : Operand) : Statement (.set b a) := lengthOfWord_basic _ _ b a rfl (by decide)
theorem Laws.LengthOfWord.add (b a : Operand) : Statement (.add b a) := lengthOfWord_basic _ _ b a rfl (by decide)
theorem Laws.LengthOfWord.sub (b a : Operand) : Statement (.sub b a) := lengthOfWord_basic _ _ b a rfl (by decide)
theorem Laws.LengthOfWord.mul (b a : Operand) : Statement (.mul b a) := lengthOfWord_basic _ _ b a rfl (by decide)
theorem Laws.LengthOfWord.mli (b a : Operand) : Statement (.mli b a) := lengthOfWord_basic _ _ b a rfl (by decide)
theorem Laws.LengthOfWord.div (b a : Operand) : Statement (.div b a) := lengthOfWord_basic _ _ b a rfl (by decide)
theorem Laws.LengthOfWord.dvi (b a : Operand) : Statement (.dvi b a) := lengthOfWord_basic _ _ b a rfl (by decide)
theorem Laws.LengthOfWord.mod (b a : Operand) : Statement (.mod b a) := lengthOfWord_basic _ _ b a rfl (by decide)
theorem Laws.LengthOfWord.mdi (b a : Operand) : Statement (.mdi b a) := lengthOfWord_basic _ _ b a rfl (by decide)
theorem Laws.LengthOfWord.and (b a : Operand) : Statement (.and b a) := lengthOfWord_basic _ _ b a rfl (by decide)
theorem Laws.LengthOfWord.bor (b a : Operand) : Statement (.bor b a) := lengthOfWord_basic _ _ b a rfl (by decide)
theorem Laws.LengthOfWord.xor (b a : Operand) : Statement (.xor b a) := lengthOfWord_basic _ _ b a rfl (by decide)
theorem Laws.LengthOfWord.shr (b a : Operand) : Statement (.shr b a) := lengthOfWord_basic _ _ b a rfl (by decide)
theorem Laws.LengthOfWord.asr (b a : Operand) : Statement (.asr b a) := lengthOfWord_basic _ _ b a rfl (by decide)
theorem Laws.LengthOfWord.shl (b a : Operand) : Statement (.shl b a) := lengthOfWord_basic _ _ b a rfl (by decide)
theorem Laws.LengthOfWord.ifb (b a : Operand) : Statement (.ifb b a) := lengthOfWord_basic _ _ b a rfl (by decide)
theorem Laws.LengthOfWord.ifc (b a : Operand) : Statement (.ifc b a) := lengthOfWord_basic _ _ b a rfl (by decide)
theorem Laws.LengthOfWord.ife (b a : Operand) : Statement (.ife b a) := lengthOfWord_basic _ _ b a rfl (by decide)
theorem Laws.LengthOfWord.ifn (b a : Operand) : Statement (.ifn b a) := lengthOfWord_basic _ _ b a rfl (by decide)
theorem Laws.LengthOfWord.ifg (b a : Operand) : Statement (.ifg b a) := lengthOfWord_basic _ _ b a rfl (by decide)
theorem Laws.LengthOfWord.ifa (b a : Operand) : Statement (.ifa b a) := lengthOfWord_basic _ _ b a rfl (by decide)
theorem Laws.LengthOfWord.ifl (b a : Operand) : Statement (.ifl b a) := lengthOfWord_basic _ _ b a rfl (by decide)
theorem Laws.LengthOfWord.ifu (b a : Operand) : Statement (.ifu b a) := lengthOfWord_basic _ _ b a rfl (by decide)
theorem Laws.LengthOfWord.reservedBasic18 (b a : Operand) : Statement (.reservedBasic18 b a) := lengthOfWord_basic _ _ b a rfl (by decide)
theorem Laws.LengthOfWord.reservedBasic19 (b a : Operand) : Statement (.reservedBasic19 b a) := lengthOfWord_basic _ _ b a rfl (by decide)
theorem Laws.LengthOfWord.adx (b a : Operand) : Statement (.adx b a) := lengthOfWord_basic _ _ b a rfl (by decide)
theorem Laws.LengthOfWord.sbx (b a : Operand) : Statement (.sbx b a) := lengthOfWord_basic _ _ b a rfl (by decide)
theorem Laws.LengthOfWord.reservedBasic1C (b a : Operand) : Statement (.reservedBasic1C b a) := lengthOfWord_basic _ _ b a rfl (by decide)
theorem Laws.LengthOfWord.reservedBasic1D (b a : Operand) : Statement (.reservedBasic1D b a) := lengthOfWord_basic _ _ b a rfl (by decide)
theorem Laws.LengthOfWord.sti (b a : Operand) : Statement (.sti b a) := lengthOfWord_basic _ _ b a rfl (by decide)
theorem Laws.LengthOfWord.std (b a : Operand) : Statement (.std b a) := lengthOfWord_basic _ _ b a rfl (by decide)
theorem Laws.LengthOfWord.reservedSpecial00 (a : Operand) : Statement (.reservedSpecial00 a) := lengthOfWord_special _ _ a rfl
theorem Laws.LengthOfWord.jsr (a : Operand) : Statement (.jsr a) := lengthOfWord_special _ _ a rfl
theorem Laws.LengthOfWord.reservedSpecial02 (a : Operand) : Statement (.reservedSpecial02 a) := lengthOfWord_special _ _ a rfl
theorem Laws.LengthOfWord.reservedSpecial03 (a : Operand) : Statement (.reservedSpecial03 a) := lengthOfWord_special _ _ a rfl
theorem Laws.LengthOfWord.reservedSpecial04 (a : Operand) : Statement (.reservedSpecial04 a) := lengthOfWord_special _ _ a rfl
theorem Laws.LengthOfWord.reservedSpecial05 (a : Operand) : Statement (.reservedSpecial05 a) := lengthOfWord_special _ _ a rfl
theorem Laws.LengthOfWord.reservedSpecial06 (a : Operand) : Statement (.reservedSpecial06 a) := lengthOfWord_special _ _ a rfl
theorem Laws.LengthOfWord.hcf (a : Operand) : Statement (.hcf a) := lengthOfWord_special _ _ a rfl
theorem Laws.LengthOfWord.int (a : Operand) : Statement (.int a) := lengthOfWord_special _ _ a rfl
theorem Laws.LengthOfWord.iag (a : Operand) : Statement (.iag a) := lengthOfWord_special _ _ a rfl
theorem Laws.LengthOfWord.ias (a : Operand) : Statement (.ias a) := lengthOfWord_special _ _ a rfl
theorem Laws.LengthOfWord.rfi (a : Operand) : Statement (.rfi a) := lengthOfWord_special _ _ a rfl
theorem Laws.LengthOfWord.iaq (a : Operand) : Statement (.iaq a) := lengthOfWord_special _ _ a rfl
theorem Laws.LengthOfWord.reservedSpecial0D (a : Operand) : Statement (.reservedSpecial0D a) := lengthOfWord_special _ _ a rfl
theorem Laws.LengthOfWord.reservedSpecial0E (a : Operand) : Statement (.reservedSpecial0E a) := lengthOfWord_special _ _ a rfl
theorem Laws.LengthOfWord.reservedSpecial0F (a : Operand) : Statement (.reservedSpecial0F a) := lengthOfWord_special _ _ a rfl
theorem Laws.LengthOfWord.hwn (a : Operand) : Statement (.hwn a) := lengthOfWord_special _ _ a rfl
theorem Laws.LengthOfWord.hwq (a : Operand) : Statement (.hwq a) := lengthOfWord_special _ _ a rfl
theorem Laws.LengthOfWord.hwi (a : Operand) : Statement (.hwi a) := lengthOfWord_special _ _ a rfl
theorem Laws.LengthOfWord.reservedSpecial13 (a : Operand) : Statement (.reservedSpecial13 a) := lengthOfWord_special _ _ a rfl
theorem Laws.LengthOfWord.reservedSpecial14 (a : Operand) : Statement (.reservedSpecial14 a) := lengthOfWord_special _ _ a rfl
theorem Laws.LengthOfWord.reservedSpecial15 (a : Operand) : Statement (.reservedSpecial15 a) := lengthOfWord_special _ _ a rfl
theorem Laws.LengthOfWord.reservedSpecial16 (a : Operand) : Statement (.reservedSpecial16 a) := lengthOfWord_special _ _ a rfl
theorem Laws.LengthOfWord.reservedSpecial17 (a : Operand) : Statement (.reservedSpecial17 a) := lengthOfWord_special _ _ a rfl
theorem Laws.LengthOfWord.reservedSpecial18 (a : Operand) : Statement (.reservedSpecial18 a) := lengthOfWord_special _ _ a rfl
theorem Laws.LengthOfWord.reservedSpecial19 (a : Operand) : Statement (.reservedSpecial19 a) := lengthOfWord_special _ _ a rfl
theorem Laws.LengthOfWord.reservedSpecial1A (a : Operand) : Statement (.reservedSpecial1A a) := lengthOfWord_special _ _ a rfl
theorem Laws.LengthOfWord.reservedSpecial1B (a : Operand) : Statement (.reservedSpecial1B a) := lengthOfWord_special _ _ a rfl
theorem Laws.LengthOfWord.reservedSpecial1C (a : Operand) : Statement (.reservedSpecial1C a) := lengthOfWord_special _ _ a rfl
theorem Laws.LengthOfWord.reservedSpecial1D (a : Operand) : Statement (.reservedSpecial1D a) := lengthOfWord_special _ _ a rfl
theorem Laws.LengthOfWord.reservedSpecial1E (a : Operand) : Statement (.reservedSpecial1E a) := lengthOfWord_special _ _ a rfl
theorem Laws.LengthOfWord.reservedSpecial1F (a : Operand) : Statement (.reservedSpecial1F a) := lengthOfWord_special _ _ a rfl

end Sys2Proof
end

