-- ==== Sys2Proof/Laws/Values.lean ====
section
/-! SUPPORT. `u16` and `s16` (R8) as bit-vector conversions, through which the value functions meet bit-vector arithmetic. -/

namespace Sys2Proof.Machine
open Sys2Proof

theorem s16_eq_toInt (v : Word) : s16 v = v.toInt := by
  simp only [s16, BitVec.toInt_eq_toNat_cond]
  split <;> split <;> omega

/-- A natural number narrowed. -/
theorem u16_natCast (n : Nat) : u16 (n : Int) = BitVec.ofNat 16 n := by
  apply BitVec.eq_of_toNat_eq
  simp only [u16, BitVec.toNat_ofInt, BitVec.toNat_ofNat]
  omega

/-- A word is what its unsigned value narrows to. -/
theorem u16_nat (v : Word) : u16 (nat v) = v := by
  rw [nat, u16_natCast, BitVec.ofNat_toNat, BitVec.setWidth_eq]

/-- A word is what its signed value narrows to. -/
theorem u16_toInt (v : Word) : u16 v.toInt = v := BitVec.ofInt_toInt

theorem u16_toNat (n : Int) : ((u16 n).toNat : Int) = n % 65536 := by
  simp only [u16, BitVec.toNat_ofInt]
  omega

/-- Two numbers narrow alike when they agree mod 65536. -/
theorem u16_congr {m n : Int} (h : m % 65536 = n % 65536) : u16 m = u16 n := by
  apply BitVec.eq_of_toNat_eq
  have hm := u16_toNat m
  have hn := u16_toNat n
  omega

theorem u16_add (v w : Word) : u16 (nat v + nat w) = v + w := by
  apply BitVec.eq_of_toNat_eq
  have := u16_toNat (nat v + nat w)
  simp only [nat, BitVec.toNat_add] at this ⊢
  omega

theorem u16_sub (v w : Word) : u16 (nat v - nat w) = v - w := by
  apply BitVec.eq_of_toNat_eq
  have := u16_toNat (nat v - nat w)
  have := w.isLt
  simp only [nat, BitVec.toNat_sub] at *
  omega

theorem u16_mul (v w : Word) : u16 (nat v * nat w) = v * w := by
  rw [nat, nat, ← Int.natCast_mul, u16_natCast, BitVec.ofNat_mul]
  simp

end Sys2Proof.Machine
end

