-- ==== Sys2Proof/Tests/Slice0.lean ====
section
/-! SUPPORT. Tests. Decoding words written out bit by bit from 30_encoding.md R81-R89; one-step vectors of 95_test_vectors.md;
and, for every statement with hypotheses, a witness that meets them. Expected values are the spec's. -/

namespace Sys2Proof.Tests
open Sys2Proof Sys2Proof.Machine

set_option Elab.async false

/-! ## Helpers -/

/-- Words stored from PC on. -/
def load (ws : List Word) (s : State) : State := storeWords ws s.pc s

/-- A next state with a property. -/
def ok (o : Outcome) (p : State → Bool) : Bool :=
  match o with
  | .next t => p t
  | .fault _ => false
  | .refused _ => false

/-- One step of the given words from the given state. -/
def run (ws : List Word) (s : State) (p : State → Bool) : Bool := ok (step (load ws s)) p

/-- The state after a step, if there is one. -/
def following (s : State) : State := singleStep s

/-- Reset, with A and B. -/
def ab (a b : Word) : State := { State.reset with regs := { Regs.zero with a := a, b := b } }

/-- Reset, with A, B and EX = 0x5A5A. -/
def abx (a b : Word) : State := { ab a b with ex := 0x5A5A }

/-- A word of RAM. -/
def ram (a v : Word) (s : State) : State := s.rawWrite a v

/-! ## Well-formedness: a term each check refuses (R83, R84) -/

theorem test_pop_is_no_destination : (Instr.set .pop (.reg .a)).wellFormed = false := by decide
theorem test_short_is_no_destination : (Instr.set (.short 1) (.reg .a)).wellFormed = false := by decide
theorem test_push_is_no_source : (Instr.set (.reg .a) .push).wellFormed = false := by decide
theorem test_push_is_no_special_operand : (Instr.jsr .push).wellFormed = false := by decide
theorem test_31_is_no_short_literal : (Instr.set (.reg .a) (.short 31)).wellFormed = false := by decide
theorem test_minus_2_is_no_short_literal : (Instr.set (.reg .a) (.short 0xFFFE)).wellFormed = false := by decide
theorem test_short_window_ends :
    (Instr.set (.reg .a) (.short 30)).wellFormed = true ∧ (Instr.set (.reg .a) (.short 0xFFFF)).wellFormed = true := by decide
theorem test_constants_take_the_short_form_in_a_only :
    Operand.ofConstA 30 = (.short 30, []) ∧ Operand.ofConstA 31 = (.nextLit, [31]) ∧ Operand.ofConstA 0xFFFE = (.nextLit, [0xFFFE]) ∧
    Operand.ofConstB 5 = (.nextLit, [5]) := by decide
theorem test_an_unfinished_instruction_is_refused :
    decodeWords [] = .noOpcodeWord ∧ decodeWords [0x7FC1, 0x1000] = .missingTrailingWord (.set .nextInd .nextLit) := by decide

/-! ## Decoding: aaaaaa bbbbb ooooo and aaaaaa sssss 00000 (R81, R82), opcodes of R88 and R89, operand codes of R83 -/

theorem test_decode_arithmetic_and_set :
    decode 0b0110000000000001 = .set (.reg .a) .pop ∧
    decode 0b0110010100100010 = .add (.regInd .b) .peek ∧
    decode 0b0111011001000011 = .sub (.regOff .c) .ex ∧
    decode 0b0000111100000100 = .mul .push (.reg .x) ∧
    decode 0b0101011100100101 = .mli .peek (.regOff .z) ∧
    decode 0b0111001101000110 = .div .pick .pc ∧
    decode 0b1010111101100111 = .dvi .sp (.short 10) ∧
    decode 0b1111111110001000 = .mod .pc (.short 30) ∧
    decode 0b0110111110101001 = .mdi .ex .sp ∧
    decode 0b0011110011111010 = .adx (.reg .j) (.regInd .j) ∧
    decode 0b0011000110111011 = .sbx (.regInd .z) (.regInd .y) ∧
    decode 0b1000000100111110 = .sti (.regInd .b) (.short 0xFFFF) ∧
    decode 0b1000011001011111 = .std (.regOff .c) (.short 0) := by decide

theorem test_decode_logic_and_shifts :
    decode 0b0011111111001010 = .and .nextInd (.regInd .j) ∧
    decode 0b0011001111101011 = .bor .nextLit (.regInd .y) ∧
    decode 0b0110100011101100 = .xor (.reg .j) .pick ∧
    decode 0b0111110110101101 = .shr (.regInd .z) .nextLit ∧
    decode 0b1000001011001110 = .asr (.regOff .i) (.short 0xFFFF) ∧
    decode 0b1000010000001111 = .shl (.reg .a) (.short 0) := by decide

theorem test_decode_conditionals :
    decode 0b0111100100110000 = .ifb (.regInd .b) .nextInd ∧
    decode 0b0110001001010001 = .ifc (.regOff .c) .pop ∧
    decode 0b0110011100010010 = .ife .push .peek ∧
    decode 0b0111011100110011 = .ifn .peek .ex ∧
    decode 0b0000111101010100 = .ifg .pick (.reg .x) ∧
    decode 0b0101011101110101 = .ifa .sp (.regOff .z) ∧
    decode 0b0111001110010110 = .ifl .pc .pc ∧
    decode 0b1010111110110111 = .ifu .ex (.short 10) := by decide

theorem test_decode_reserved_basic_opcodes :
    decode 0b1111111111011000 = .reservedBasic18 .nextInd (.short 30) ∧
    decode 0b0110111111111001 = .reservedBasic19 .nextLit .sp ∧
    decode 0b0110101011011100 = .reservedBasic1C (.regOff .i) .pick ∧
    decode 0b0111110000011101 = .reservedBasic1D (.reg .a) .nextLit := by decide

theorem test_decode_reserved_special_opcodes_low :
    decode 0b0111100000000000 = .reservedSpecial00 .nextInd ∧
    decode 0b0110010001000000 = .reservedSpecial02 .peek ∧
    decode 0b0111010001100000 = .reservedSpecial03 .ex ∧
    decode 0b0000110010000000 = .reservedSpecial04 (.reg .x) ∧
    decode 0b0101010010100000 = .reservedSpecial05 (.regOff .z) ∧
    decode 0b0111000011000000 = .reservedSpecial06 .pc ∧
    decode 0b0111110110100000 = .reservedSpecial0D .nextLit ∧
    decode 0b1000000111000000 = .reservedSpecial0E (.short 0xFFFF) ∧
    decode 0b1000010111100000 = .reservedSpecial0F (.short 0) := by decide

theorem test_decode_special_instructions :
    decode 0b0110000000100000 = .jsr .pop ∧
    decode 0b1010110011100000 = .hcf (.short 10) ∧
    decode 0b1111110100000000 = .int (.short 30) ∧
    decode 0b0110110100100000 = .iag .sp ∧
    decode 0b0011110101000000 = .ias (.regInd .j) ∧
    decode 0b0011000101100000 = .rfi (.regInd .y) ∧
    decode 0b0110100110000000 = .iaq .pick ∧
    decode 0b0111101000000000 = .hwn .nextInd ∧
    decode 0b0110001000100000 = .hwq .pop ∧
    decode 0b0110011001000000 = .hwi .peek := by decide

theorem test_decode_reserved_special_opcodes_high :
    decode 0b0111011001100000 = .reservedSpecial13 .ex ∧
    decode 0b0000111010000000 = .reservedSpecial14 (.reg .x) ∧
    decode 0b0101011010100000 = .reservedSpecial15 (.regOff .z) ∧
    decode 0b0111001011000000 = .reservedSpecial16 .pc ∧
    decode 0b1010111011100000 = .reservedSpecial17 (.short 10) ∧
    decode 0b1111111100000000 = .reservedSpecial18 (.short 30) ∧
    decode 0b0110111100100000 = .reservedSpecial19 .sp ∧
    decode 0b0011111101000000 = .reservedSpecial1A (.regInd .j) ∧
    decode 0b0011001101100000 = .reservedSpecial1B (.regInd .y) ∧
    decode 0b0110101110000000 = .reservedSpecial1C .pick ∧
    decode 0b0111111110100000 = .reservedSpecial1D .nextLit ∧
    decode 0b1000001111000000 = .reservedSpecial1E (.short 0xFFFF) ∧
    decode 0b1000011111100000 = .reservedSpecial1F (.short 0) := by decide

/-- Field b's codes, one of each class and both ends of each range. -/
theorem test_decode_b_codes :
    decodeB 0x00 = .reg .a ∧ decodeB 0x07 = .reg .j ∧ decodeB 0x08 = .regInd .a ∧ decodeB 0x0F = .regInd .j ∧
    decodeB 0x10 = .regOff .a ∧ decodeB 0x17 = .regOff .j ∧ decodeB 0x18 = .push ∧ decodeB 0x19 = .peek ∧
    decodeB 0x1A = .pick ∧ decodeB 0x1B = .sp ∧ decodeB 0x1C = .pc ∧ decodeB 0x1D = .ex ∧ decodeB 0x1E = .nextInd ∧
    decodeB 0x1F = .nextLit := by decide

/-- Field a differs at 0x18 and has the packed immediates. -/
theorem test_decode_a_codes :
    decodeA 0x00 = .reg .a ∧ decodeA 0x07 = .reg .j ∧ decodeA 0x18 = .pop ∧ decodeA 0x1F = .nextLit ∧
    decodeA 0x20 = .short 0xFFFF ∧ decodeA 0x21 = .short 0 ∧ decodeA 0x3F = .short 0x1E := by decide

/-! ## One step (95_test_vectors.md 2.1-2.6) -/

theorem test_set_literal_destination_discards :
    run [0x03E1, 0x0005] (ab 9 0)
      (fun t => t.reg .a == 9 && t.pc == 2 && t.cyc == 1 && t.ram == (load [0x03E1, 0x0005] (ab 9 0)).ram) = true := by decide +kernel
theorem test_set_short :
    run [0x8821] State.reset
      (fun t => t.reg .b == 1 && t.pc == 1 && t.cyc == 1 && !t.marked) = true := by decide +kernel
theorem test_add_carries :
    run [0x0402] (abx 0xFFFF 1)
      (fun t => t.reg .a == 0 && t.ex == 1 && t.pc == 1 && t.cyc == 1) = true := by decide +kernel
theorem test_add_flags_no_signed_overflow :
    run [0x0402] (abx 0x7FFF 1)
      (fun t => t.reg .a == 0x8000 && t.ex == 0 && t.pc == 1 && t.cyc == 1) = true := by decide +kernel
theorem test_sub_borrows :
    run [0x0403] (abx 5 7)
      (fun t => t.reg .a == 0xFFFE && t.ex == 1 && t.pc == 1 && t.cyc == 1) = true := by decide +kernel
theorem test_sub_self :
    run [0x0003] (abx 5 0)
      (fun t => t.reg .a == 0 && t.ex == 0) = true := by decide +kernel
theorem test_mul_high_word :
    run [0x0404] (abx 0x1234 0x0100)
      (fun t => t.reg .a == 0x3400 && t.ex == 0x0012 && t.pc == 1 && t.cyc == 1) = true := by decide +kernel
theorem test_mul_largest :
    run [0x0404] (abx 0xFFFF 0xFFFF)
      (fun t => t.reg .a == 1 && t.ex == 0xFFFE && t.pc == 1 && t.cyc == 1) = true := by decide +kernel
theorem test_mli_negative :
    run [0x0405] (abx 0xFFFE 3)
      (fun t => t.reg .a == 0xFFFA && t.ex == 0xFFFF && t.pc == 1 && t.cyc == 1) = true := by decide +kernel
theorem test_mli_most_negative :
    run [0x0405] (abx 0x8000 0x8000)
      (fun t => t.reg .a == 0 && t.ex == 0x4000 && t.pc == 1 && t.cyc == 1) = true := by decide +kernel
theorem test_div_fraction :
    run [0x0406] (abx 1 3)
      (fun t => t.reg .a == 0 && t.ex == 0x5555 && t.pc == 1 && t.cyc == 1) = true := by decide +kernel
theorem test_div_by_zero :
    run [0x0406] (abx 0x1234 0)
      (fun t => t.reg .a == 0 && t.ex == 0 && t.pc == 1 && t.cyc == 1) = true := by decide +kernel
theorem test_dvi_rounds_toward_zero :
    run [0x0407] (abx 0xFFF9 2)
      (fun t => t.reg .a == 0xFFFD && t.ex == 0x8000 && t.pc == 1 && t.cyc == 1) = true := by decide +kernel
theorem test_dvi_wraps :
    run [0x0407] (abx 0x8000 0xFFFF)
      (fun t => t.reg .a == 0x8000 && t.ex == 0 && t.pc == 1 && t.cyc == 1) = true := by decide +kernel
theorem test_mod_remainder :
    run [0x0408] (abx 7 3)
      (fun t => t.reg .a == 1 && t.ex == 0x5A5A && t.pc == 1 && t.cyc == 1) = true := by decide +kernel
theorem test_mod_by_zero :
    run [0x0408] (abx 7 0)
      (fun t => t.reg .a == 0 && t.ex == 0x5A5A && t.pc == 1 && t.cyc == 1) = true := by decide +kernel
theorem test_mdi_sign_of_dividend :
    run [0x0409] (abx 0xFFF9 0x0010)
      (fun t => t.reg .a == 0xFFF9 && t.ex == 0x5A5A && t.pc == 1 && t.cyc == 1) = true := by decide +kernel
theorem test_mdi_negative_divisor :
    run [0x0409] (abx 7 0xFFFD)
      (fun t => t.reg .a == 1 && t.ex == 0x5A5A && t.pc == 1 && t.cyc == 1) = true := by decide +kernel
theorem test_and_bits :
    run [0x040A] (abx 0xF0F0 0xFF00)
      (fun t => t.reg .a == 0xF000 && t.ex == 0x5A5A && t.pc == 1 && t.cyc == 1) = true := by decide +kernel
theorem test_bor_bits :
    run [0x040B] (abx 0xF0F0 0x0F00)
      (fun t => t.reg .a == 0xFFF0 && t.ex == 0x5A5A && t.pc == 1 && t.cyc == 1) = true := by decide +kernel
theorem test_xor_bits :
    run [0x040C] (abx 0xF0F0 0xFF00)
      (fun t => t.reg .a == 0x0FF0 && t.ex == 0x5A5A && t.pc == 1 && t.cyc == 1) = true := by decide +kernel
theorem test_shr_by_1 :
    run [0x040D] (abx 0x8001 1)
      (fun t => t.reg .a == 0x4000 && t.ex == 0x8000 && t.pc == 1 && t.cyc == 1) = true := by decide +kernel
theorem test_shr_by_20 :
    run [0x040D] (abx 0x8001 0x14)
      (fun t => t.reg .a == 0 && t.ex == 0x0800 && t.pc == 1 && t.cyc == 1) = true := by decide +kernel
theorem test_asr_by_1 :
    run [0x040E] (abx 0x8001 1)
      (fun t => t.reg .a == 0xC000 && t.ex == 0x8000 && t.pc == 1 && t.cyc == 1) = true := by decide +kernel
theorem test_asr_by_40 :
    run [0x040E] (abx 0x8000 0x28)
      (fun t => t.reg .a == 0xFFFF && t.ex == 0xFFFF && t.pc == 1 && t.cyc == 1) = true := by decide +kernel
theorem test_shl_by_1 :
    run [0x040F] (abx 0x8001 1)
      (fun t => t.reg .a == 2 && t.ex == 1 && t.pc == 1 && t.cyc == 1) = true := by decide +kernel
theorem test_shl_by_65535 :
    run [0x040F] (abx 0x1234 0xFFFF)
      (fun t => t.reg .a == 0 && t.ex == 0 && t.pc == 1 && t.cyc == 1) = true := by decide +kernel
theorem test_adx_carry_in :
    run [0x041A] { ab 1 2 with ex := 0xFFFF }
      (fun t => t.reg .a == 2 && t.ex == 1) = true := by decide +kernel
theorem test_sbx_borrow :
    run [0x041B] { ab 0 1 with ex := 0 }
      (fun t => t.reg .a == 0xFFFF && t.ex == 0xFFFF) = true := by decide +kernel
theorem test_sbx_carry :
    run [0x041B] { ab 5 3 with ex := 0xFFFF }
      (fun t => t.reg .a == 1 && t.ex == 1) = true := by decide +kernel
theorem test_sti_memory :
    run [0x3DDE] (ram 0x2000 0x42 { State.reset with regs := { Regs.zero with i := 0x1000, j := 0x2000 } })
      (fun t => t.rawRead 0x1000 == 0x42 && t.reg .i == 0x1001 && t.reg .j == 0x2001) = true := by decide +kernel
theorem test_sti_destination_i :
    run [0x98DE] State.reset
      (fun t => t.reg .i == 6 && t.reg .j == 1) = true := by decide +kernel
theorem test_std_memory :
    run [0x3DDF] (ram 0x2000 0x42 { State.reset with regs := { Regs.zero with i := 0x1000, j := 0x2000 } })
      (fun t => t.rawRead 0x1000 == 0x42 && t.reg .i == 0x0FFF && t.reg .j == 0x1FFF) = true := by decide +kernel
theorem test_add_to_ex :
    run [0x8BA2] { State.reset with ex := 0xFFFF }
      (fun t => t.ex == 1 && t.pc == 1) = true := by decide +kernel
theorem test_ifb_true :
    run [0x0410] (ab 0x0F0F 0x0101)
      (fun t => !t.skip && t.pc == 1 && t.cyc == 1) = true := by decide +kernel
theorem test_ifb_false :
    run [0x0410] (ab 0x0F0F 0x00F0)
      (fun t => t.skip && t.pc == 1 && t.cyc == 1) = true := by decide +kernel
theorem test_ifc_true :
    run [0x0411] (ab 0x0F0F 0x00F0)
      (fun t => !t.skip && t.pc == 1 && t.cyc == 1) = true := by decide +kernel
theorem test_ifc_false :
    run [0x0411] (ab 0x0F0F 0x0101)
      (fun t => t.skip && t.pc == 1 && t.cyc == 1) = true := by decide +kernel
theorem test_ifg_true :
    run [0x0414] (ab 0x8000 0x7FFF)
      (fun t => !t.skip && t.pc == 1 && t.cyc == 1) = true := by decide +kernel
theorem test_ifg_false :
    run [0x0414] (ab 1 1)
      (fun t => t.skip && t.pc == 1 && t.cyc == 1) = true := by decide +kernel
theorem test_ifa_true :
    run [0x0415] (ab 1 0xFFFF)
      (fun t => !t.skip && t.pc == 1 && t.cyc == 1) = true := by decide +kernel
theorem test_ifa_false :
    run [0x0415] (ab 0xFFFF 1)
      (fun t => t.skip && t.pc == 1 && t.cyc == 1) = true := by decide +kernel
theorem test_ifl_true :
    run [0x0416] (ab 1 0xFFFF)
      (fun t => !t.skip && t.pc == 1 && t.cyc == 1) = true := by decide +kernel
theorem test_ifl_false :
    run [0x0416] (ab 0xFFFF 1)
      (fun t => t.skip && t.pc == 1 && t.cyc == 1) = true := by decide +kernel
theorem test_ifu_true :
    run [0x0417] (ab 0x8000 0x7FFF)
      (fun t => !t.skip && t.pc == 1 && t.cyc == 1) = true := by decide +kernel
theorem test_ifu_false :
    run [0x0417] (ab 1 0xFFFF)
      (fun t => t.skip && t.pc == 1 && t.cyc == 1) = true := by decide +kernel
theorem test_ife_true :
    run [0x9812] (ab 5 0)
      (fun t => !t.skip && t.cyc == 1) = true := by decide +kernel
theorem test_ife_false :
    run [0x9412] (ab 5 0)
      (fun t => t.skip && t.cyc == 1) = true := by decide +kernel
theorem test_ifn_true :
    run [0x0413] (ab 5 6)
      (fun t => !t.skip) = true := by decide +kernel
theorem test_ifn_false :
    run [0x0013] (ab 5 0)
      (fun t => t.skip) = true := by decide +kernel

/-! Operand classes -/

theorem test_regInd :
    run [0x2401] (ram 0x2000 0xBEEF (ab 0 0x2000))
      (fun t => t.reg .a == 0xBEEF) = true := by decide +kernel
theorem test_regOff_wraps :
    run [0x4401, 0x0010] (ram 8 0xBEEF (ab 0 0xFFF8))
      (fun t => t.reg .a == 0xBEEF && t.pc == 2) = true := by decide +kernel
theorem test_push :
    run [0x0F01] { State.reset with regs := { Regs.zero with x := 0x1234 } }
      (fun t => t.sp == 0xFFFF && t.rawRead 0xFFFF == 0x1234) = true := by decide +kernel
theorem test_pop :
    run [0x6001] (ram 0xFFFF 0x4321 { State.reset with sp := 0xFFFF })
      (fun t => t.reg .a == 0x4321 && t.sp == 0) = true := by decide +kernel
theorem test_peek :
    run [0x6401] (ram 0xFFFE 0x1111 { State.reset with sp := 0xFFFE })
      (fun t => t.reg .a == 0x1111 && t.sp == 0xFFFE) = true := by decide +kernel
theorem test_pick :
    run [0x6801, 1] (ram 0xFFFF 0x2222 { State.reset with sp := 0xFFFE })
      (fun t => t.reg .a == 0x2222 && t.pc == 2) = true := by decide +kernel
theorem test_pc_reads_as_of_start :
    run [0x73C1, 0x0020] { State.reset with pc := 0x10 }
      (fun t => t.rawRead 0x20 == 0x10 && t.pc == 0x12) = true := by decide +kernel
theorem test_next_to_next :
    run [0x7BC1, 0x3001, 0x3000] (ram 0x3000 0x0ABC State.reset)
      (fun t => t.rawRead 0x3001 == 0x0ABC && t.pc == 3) = true := by decide +kernel
theorem test_push_of_sp :
    run [0x6F01] { State.reset with sp := 5 }
      (fun t => t.sp == 4 && t.rawRead 4 == 5) = true := by decide +kernel
theorem test_pop_to_sp :
    run [0x6361] (ram 0x1000 0x2222 { State.reset with sp := 0x1000 })
      (fun t => t.sp == 0x2222) = true := by decide +kernel
theorem test_sub_sp :
    run [0x8B63] State.reset
      (fun t => t.sp == 0xFFFF && t.ex == 1) = true := by decide +kernel
theorem test_add_pc :
    run [0x8F82] { State.reset with pc := 0x10 }
      (fun t => t.pc == 0x12 && t.ex == 0) = true := by decide +kernel
theorem test_push_pop :
    run [0x6301] (ram 0x0FFF 0x5555 { State.reset with sp := 0x1000 })
      (fun t => t.sp == 0x1000 && t.rawRead 0x0FFF == 0x5555 && t.pc == 1) = true := by decide +kernel
theorem test_own_trailing_word :
    run [0x7FC1, 0x0001, 0x1234] State.reset
      (fun t => t.rawRead 1 == 0x1234 && t.pc == 3) = true := by decide +kernel

/-! Special, reserved and refused instructions, dispatch, skip -/

theorem test_jsr :
    run [0x7C20, 0x0010] State.reset
      (fun t => t.sp == 0xFFFF && t.rawRead 0xFFFF == 2 && t.pc == 0x10) = true := by decide +kernel
theorem test_jsr_pop :
    run [0x6020] (ram 0x1000 0x40 { State.reset with sp := 0x1000 })
      (fun t => t.rawRead 0x1000 == 1 && t.sp == 0x1000 && t.pc == 0x40) = true := by decide +kernel
theorem test_hcf :
    run [0x84E0] { State.reset with pc := 5 }
      (fun t => t.halt && t.pc == 6 && t.cyc == 1 && !t.reservedExec) = true := by decide +kernel
theorem test_int_dropped :
    run [0x8D00] State.reset
      (fun t => t.intq == [] && t.pc == 1 && t.cyc == 1) = true := by decide +kernel
theorem test_int_queued_while_suspended :
    run [0x8D00] { State.reset with ia := 6, susp := true }
      (fun t => t.intq == [2] && t.pc == 1) = true := by decide +kernel
theorem test_iag :
    run [0x0120] { State.reset with ia := 0x100 }
      (fun t => t.reg .a == 0x100) = true := by decide +kernel
theorem test_ias :
    run [0x7D40, 0x0006] State.reset
      (fun t => t.ia == 6 && t.pc == 2) = true := by decide +kernel
theorem test_rfi :
    run [0x8560] (ram 0xFFFF 0x42 (ram 0xFFFE 7 { State.reset with sp := 0xFFFE, susp := true }))
      (fun t => t.reg .a == 7 && t.pc == 0x42 && t.sp == 0 && !t.susp) = true := by decide +kernel
theorem test_iaq_1 :
    run [0x8980] State.reset
      (fun t => t.susp && t.pc == 1) = true := by decide +kernel
theorem test_iaq_0 :
    run [0x8580] { State.reset with susp := true }
      (fun t => !t.susp) = true := by decide +kernel
theorem test_reserved_basic_18 :
    run [0x7F18, 0x1234] State.reset
      (fun t => t.sp == 0xFFFF && t.pc == 2 && t.rawRead 0xFFFF == 0 && t.reservedExec && t.halt && t.cyc == 1) = true := by decide +kernel
theorem test_reserved_basic_1C :
    run [0x041C] (ab 1 2)
      (fun t => t.reg .a == 1 && t.reg .b == 2 && t.reservedExec && t.halt && t.pc == 1) = true := by decide +kernel
theorem test_reserved_special_02 :
    run [0x8440] State.reset
      (fun t => t.reservedExec && t.halt && t.pc == 1 && t.cyc == 1) = true := by decide +kernel
theorem test_hwn :
    run [0x0200] State.reset
      (fun t => t.refused == some .hwn && t.pc == 1 && t.cyc == 0) = true := by decide +kernel
theorem test_hwq :
    run [0x0220] State.reset
      (fun t => t.refused == some .hwq && t.pc == 1 && t.cyc == 0) = true := by decide +kernel
theorem test_hwi :
    run [0x0240] State.reset
      (fun t => t.refused == some .hwi && t.pc == 1 && t.cyc == 0) = true := by decide +kernel
theorem test_dispatch :
    run [] { ab 0x1111 0 with ia := 0x40, intq := [5], pc := 0x10 }
      (fun t => t.rawRead 0xFFFF == 0x10 && t.rawRead 0xFFFE == 0x1111 && t.sp == 0xFFFE && t.reg .a == 5 && t.pc == 0x40 && t.susp && t.intq == [] && t.cyc == 0) = true := by decide +kernel
theorem test_skip_before_dispatch :
    run [0x7FC1, 0x8000, 0x0041] { State.reset with ia := 0x40, intq := [5], skip := true }
      (fun t => t.intq == [5] && t.pc == 3 && !t.skip && t.cyc == 0 && t.rawRead 0x8000 == 0) = true := by decide +kernel
theorem test_suspended_executes :
    run [0x8821] { State.reset with ia := 0x40, intq := [5], susp := true }
      (fun t => t.intq == [5] && t.reg .b == 1) = true := by decide +kernel
theorem test_overflow :
    run [0x9100] { State.reset with ia := 0x10, susp := true, intQueueCap := 2, intq := [1, 2] }
      (fun t => t.fault == some .queueOverflow && t.intq == [1, 2] && t.cyc == 0 && t.pc == 1) = true := by decide +kernel
theorem test_halted_takes_no_step :
    step { State.reset with halt := true, ia := 0x40, intq := [5] } = .fault .halted := rfl
theorem test_withFetchWord_runs_first : (following (State.reset.withFetchWord 16 0x8821)).regs.b = 1 := by decide +kernel


/-! ## Witnesses: for each statement with hypotheses, a state and operands that meet them, clause by clause -/

theorem witness_DecodeOfEncode :
    (Instr.set (.reg .b) (.short 0xFFFF)).wellFormed = true ∧ (Instr.std .push (.short 30)).wellFormed = true ∧
    (Instr.reservedSpecial1F .pop).wellFormed = true := by decide

theorem witness_EveryWordIsOneInstruction :
    (Instr.set (.reg .b) (.short 1)).wellFormed = true ∧ encode (.set (.reg .b) (.short 1)) = 0x8821 ∧
    [0x1000, 0x4000].length = (decode 0x7FC1).trailing ∧ ([] : List Word).length = (decode 0x8821).trailing := by decide

theorem witness_WrittenWordsDecode :
    (Instr.std .push (.short 30)).format = .basic 0x1F .push (.short 30) ∧
    (Instr.reservedSpecial1F .pop).format = .special 0x1F .pop := by decide

theorem witness_PackedImmediates : 0x20 ≤ (0x20#6).toNat ∧ 0x20 ≤ (0x3F#6).toNat := by decide

/-- The register numbers of R126's frame clause differ. -/
theorem witness_ReadsAndWritesOfLocations : Reg.a ≠ Reg.j := by decide

theorem witness_PcAndSpOperandsInOneInstruction : State.reset.Unclaimed := by decide
theorem witness_StackOperandsInOrder :
    State.reset.Unclaimed ∧ Memory.wf State.reset.ram = true ∧ (0x1000 : Word) ≠ State.reset.sp - 1 := by decide
theorem witness_SetResult : State.reset.Unclaimed ∧ Operand.reg .a ≠ .ex ∧ Operand.nextLit ≠ .ex := by decide
theorem witness_AddAndSubResult : State.reset.Unclaimed := by decide
theorem witness_MulAndMliResult : State.reset.Unclaimed := by decide
theorem witness_DivAndDviResult : State.reset.Unclaimed := by decide
theorem witness_ModAndMdiResult : State.reset.Unclaimed ∧ Operand.push ≠ .ex := by decide
theorem witness_LogicResult : State.reset.Unclaimed ∧ Operand.sp ≠ .ex := by decide
theorem witness_ShiftResult : State.reset.Unclaimed := by decide
theorem witness_ShiftCountsOfSixteenAndMore :
    16 < (17 : Word).toNat ∧ (31 : Word).toNat < 32 ∧ 32 ≤ (32 : Word).toNat ∧ 32 ≤ (0xFFFF : Word).toNat := by decide
theorem witness_AdxAndSbxResult : State.reset.Unclaimed := by decide
theorem witness_StiAndStdResult : State.reset.Unclaimed ∧ Operand.reg .i ≠ .ex := by decide

/-- Values of registers A and B as a conditional with operands A, B sees them. -/
def seen (a b : Word) (cond : Word → Word → Bool) : Bool :=
  cond ((ab a b).basicOperands (.reg .a) (.reg .b)).bv ((ab a b).basicOperands (.reg .a) (.reg .b)).av

/-- Each of the eight conditions both true and false (95_test_vectors.md 2.2). -/
theorem witness_ConditionalResult :
    (∀ x y, (ab x y).Unclaimed) ∧
    seen 0x0F0F 0x0101 ifbCond = true ∧ seen 0x0F0F 0x00F0 ifbCond = false ∧
    seen 0x0F0F 0x00F0 ifcCond = true ∧ seen 0x0F0F 0x0101 ifcCond = false ∧
    seen 5 5 ifeCond = true ∧ seen 5 4 ifeCond = false ∧ seen 5 6 ifnCond = true ∧ seen 5 5 ifnCond = false ∧
    seen 0x8000 0x7FFF ifgCond = true ∧ seen 1 1 ifgCond = false ∧ seen 1 0xFFFF ifaCond = true ∧ seen 0xFFFF 1 ifaCond = false ∧
    seen 1 0xFFFF iflCond = true ∧ seen 0xFFFF 1 iflCond = false ∧ seen 0x8000 0x7FFF ifuCond = true ∧ seen 1 0xFFFF ifuCond = false :=
  ⟨fun _ _ => rfl, by decide⟩

theorem witness_ExIsWrittenAfterTheDestination :
    State.reset.Unclaimed ∧ (Instr.add .ex (.short 1), (addValue 0 1).2) ∈ [(Instr.add .ex (.short 1), (addValue 0 1).2)] := by
  decide

theorem witness_JsrResult : State.reset.Unclaimed ∧ Memory.wf State.reset.ram = true := by decide

/-- A non-zero and a zero operand of IAQ. -/
theorem witness_HcfAndIaqResult :
    State.reset.Unclaimed ∧ (State.reset.specialOperand (.short 1)).av ≠ 0 ∧ (State.reset.specialOperand (.short 0)).av = 0 := by
  decide

/-- IA set and the queue with room, or full. -/
def withRoom : State := { State.reset with ia := 6, intQueueCap := 2, intq := [1] }
def full : State := { State.reset with ia := 6, intQueueCap := 2, intq := [1, 2], susp := true }

theorem witness_IntResult :
    State.reset.Unclaimed ∧ State.reset.ia = 0 ∧ (withRoom.Unclaimed ∧ withRoom.ia ≠ 0 ∧ withRoom.intq.length < withRoom.intQueueCap) ∧
    (full.Unclaimed ∧ full.ia ≠ 0 ∧ full.intQueueCap ≤ full.intq.length) := by decide

theorem witness_IagAndIasResult : State.reset.Unclaimed := by decide
theorem witness_RfiResult : State.reset.Unclaimed := by decide

/-- HWN, HWQ and HWI at PC, executed and skipped. -/
def refusing (w : Word) (skip : Bool) : State := load [w] { State.reset with skip := skip }

theorem witness_RefusedInstructions :
    (decode 0x0200 = .hwn (.reg .a) ∧ decode 0x0220 = .hwq (.reg .a) ∧ decode 0x0240 = .hwi (.reg .a)) ∧
    (∃ u, fetch { refusing 0x0200 false with pc0 := (refusing 0x0200 false).pc, sp0 := (refusing 0x0200 false).sp } = .ok 0x0200 u) ∧
    ((refusing 0x0220 false).Executes ∧ (refusing 0x0220 false).Unclaimed ∧ (refusing 0x0220 false).rawRead (refusing 0x0220 false).pc = 0x0220) ∧
    (refusing 0x0240 true).stopped = false ∧ (refusing 0x0240 true).skip = true ∧ (refusing 0x0240 true).Unclaimed ∧
    (refusing 0x0240 true).rawRead (refusing 0x0240 true).pc = 0x0240 :=
  ⟨by decide, ⟨_, rfl⟩, by decide +kernel⟩

/-- The word 0x0000 of a RAM nothing has written, executed and skipped; a reserved basic and a reserved special instruction. -/
theorem witness_ReservedOpcodes :
    State.reset.Unclaimed ∧ Instr.reservedBasic18 .push .nextLit ∈ [Instr.reservedBasic18 .push .nextLit] ∧
    (State.reset.stopped = false ∧ State.reset.NoDevices ∧ (decode (State.reset.rawRead State.reset.pc)).isReserved = true ∧
      State.reset.Executes) ∧
    (State.stopped { State.reset with skip := true }) = false ∧ ({ State.reset with skip := true } : State).skip = true := by
  decide +kernel

theorem witness_QueueOverflowStep :
    (load [0x9100] full).Executes ∧ (load [0x9100] full).Unclaimed ∧
    decode ((load [0x9100] full).rawRead (load [0x9100] full).pc) = .int (.short 3) ∧ (load [0x9100] full).ia ≠ 0 ∧
    (load [0x9100] full).intQueueCap ≤ (load [0x9100] full).intq.length := by decide +kernel

/-- The state JSR A at address 0 leaves, from which SET PC, POP returns. -/
def called : State := { State.reset with sp := 0xFFFF, ram := [(0xFFFF, 1)] }

theorem witness_CallAndReturn :
    (State.Unclaimed { State.reset with pc := 1 } ∧ Memory.wf ({ State.reset with pc := 1 } : State).ram = true) ∧
    exec (.jsr (.reg .a)) { State.reset with pc := 1 } = .next called ∧ called.Unclaimed ∧
    Operand.reg .a ≠ .push ∧ Operand.reg .a ≠ .pop :=
  ⟨by decide, rfl, by decide, by decide, by decide⟩

/-- Instructions that complete, with a register, a special register, a word outside the frame. -/
theorem witness_FrameOfGeneralRegisters :
    ∃ t, exec (.add (.reg .a) (.reg .b)) State.reset = .next t ∧
      (Instr.add (.reg .a) (.reg .b)).destination ≠ some (.reg .j) ∧ (∀ a, Instr.add (.reg .a) (.reg .b) ≠ .rfi a) ∧
      ∀ b a, ¬(Instr.add (.reg .a) (.reg .b) = .sti b a ∨ Instr.add (.reg .a) (.reg .b) = .std b a) :=
  ⟨_, rfl, by decide, by simp, by simp⟩

/-- RFI and STI meet the hypotheses with registers they do not change. -/
theorem witness_FrameOfGeneralRegisters_exceptions :
    (∃ t, exec (.rfi (.short 0)) State.reset = .next t) ∧ (Instr.rfi (.short 0)).destination ≠ some (.reg .b) ∧ Reg.b ≠ Reg.a ∧
    (∃ t, exec (.sti .nextLit (.short 0)) State.reset = .next t) ∧
    (Instr.sti .nextLit (.short 0)).destination ≠ some (.reg .a) ∧ Reg.a ≠ Reg.i ∧ Reg.a ≠ Reg.j :=
  ⟨⟨_, rfl⟩, by decide, by decide, ⟨_, rfl⟩, by decide⟩

theorem witness_FrameOfControlState :
    ∃ t, exec (.add (.reg .a) (.reg .b)) State.reset = .next t ∧ (Instr.add (.reg .a) (.reg .b)).isConditional = false ∧
      (∀ a, Instr.add (.reg .a) (.reg .b) ≠ .ias a) ∧ (∀ a, Instr.add (.reg .a) (.reg .b) ≠ .rfi a) ∧
      (∀ a, Instr.add (.reg .a) (.reg .b) ≠ .iaq a) ∧ (Instr.add (.reg .a) (.reg .b)).isReserved = false ∧
      (Instr.add (.reg .a) (.reg .b)).isRefused = false :=
  ⟨_, rfl, by decide, by simp, by simp, by simp, by decide, by decide⟩

theorem witness_FrameOfQueueHaltAndCycles :
    ∃ t, State.reset.Unclaimed ∧ exec (.add (.reg .a) (.reg .b)) State.reset = .next t ∧
      (∀ a, Instr.add (.reg .a) (.reg .b) ≠ .int a) ∧ (∀ a, Instr.add (.reg .a) (.reg .b) ≠ .hcf a) ∧
      (Instr.add (.reg .a) (.reg .b)).isReserved = false :=
  ⟨_, rfl, rfl, by simp, by simp, by decide⟩

theorem witness_FrameOfEx :
    ∃ t, exec (.set (.reg .a) .ex) State.reset = .next t ∧ (Instr.set (.reg .a) .ex).setsEx = false ∧
      (Instr.set (.reg .a) .ex).destination ≠ some .ex ∧ Instr.sbx .pc .pop ∈ [Instr.sbx .pc .pop] :=
  ⟨_, rfl, by decide, by decide, by decide⟩

theorem witness_FrameOfSp :
    ∃ t, exec (.set .peek .sp) State.reset = .next t ∧ .push ∉ (Instr.set .peek .sp).operands ∧
      .pop ∉ (Instr.set .peek .sp).operands ∧ (Instr.set .peek .sp).destination ≠ some .sp ∧ (Instr.set .peek .sp).isJsrOrRfi = false :=
  ⟨_, rfl, by decide, by decide, by decide, by decide⟩

/-- A store at 0xFFFF leaves 0xFFFE and 0x0000; JSR's slot; an instruction that stores nothing. -/
theorem witness_FrameOfMemory :
    State.reset.Unclaimed ∧ (∃ t, exec (.set .push (.short 1)) State.reset = .next t) ∧
    storeAddress (.set .push (.short 1)) State.reset = some 0xFFFF ∧ storeAddress (.set .push (.short 1)) State.reset ≠ some 0xFFFE ∧
    storeAddress (.set .push (.short 1)) State.reset ≠ some 0 ∧ storeAddress (.jsr (.reg .a)) State.reset = some 0xFFFF ∧
    storeAddress (.ife .peek .peek) State.reset = none :=
  ⟨rfl, ⟨_, rfl⟩, by decide⟩

/-- SET B, 1 after reset; and instructions that write PC. -/
theorem witness_PcAfterAnInstruction :
    (load [0x8821] State.reset).Executes ∧ (load [0x8821] State.reset).claimant (load [0x8821] State.reset).pc = none ∧
    ok (step (load [0x8821] State.reset)) (fun t => !t.marked) = true ∧
    (decode ((load [0x8821] State.reset).rawRead (load [0x8821] State.reset).pc)).destination ≠ some .pc ∧
    (decode ((load [0x8821] State.reset).rawRead (load [0x8821] State.reset).pc)).isJsrOrRfi = false ∧
    State.reset.Unclaimed ∧ ok (exec (.set .pc (.short 5)) State.reset) (fun t => t.pc == 5) = true ∧
    (Instr.set .pc (.short 5)).destination = some .pc ∧ (Instr.set .pc (.short 5)).format = .basic 0x01 .pc (.short 5) ∧
    ok (exec (.iag .pc) { State.reset with ia := 7 }) (fun t => t.pc == 7) = true ∧
    ok (exec (.jsr (.short 9)) State.reset) (fun t => t.pc == 9) = true ∧
    ok (exec (.rfi (.short 0)) called) (fun t => t.sp == 1) = true := by decide +kernel

/-- One state of each kind of step. -/
theorem witness_StoppedCoreTakesNoStep :
    (State.reset.halt = false ∧ State.reset.fault = none ∧ State.reset.refused = none ∧ State.reset.skip = false ∧
      State.reset.intq = [] ∧ State.reset.ia = 0) ∧
    ({ State.reset with skip := true } : State).skip = true ∧ full.susp = true ∧
    (withRoom.skip = false ∧ withRoom.intq ≠ [] ∧ withRoom.ia ≠ 0 ∧ withRoom.susp = false) := by decide

/-- A step that runs an instruction, unmarked with no device, and one that ends marked. -/
theorem witness_StepRunsTheDecodedInstruction :
    (load [0x8821] State.reset).Executes ∧ (Instr.set (.reg .b) (.short 1)).wellFormed = true ∧
    (load [0x8821] State.reset).Unclaimed ∧
    (load [0x8821] State.reset).rawRead (load [0x8821] State.reset).pc = encode (.set (.reg .b) (.short 1)) ∧
    ok (exec (.set (.reg .b) (.short 1)) { load [0x8821] State.reset with pc := 1 }) (fun t => !t.marked && t.devs.isEmpty) = true ∧
    (load [0x0200] State.reset).Executes ∧ (load [0x0200] State.reset).rawRead 0 = encode (.hwn (.reg .a)) ∧
    ok (exec (.hwn (.reg .a)) { load [0x0200] State.reset with pc := 1 }) (fun t => t.refused.isSome) = true := by decide +kernel

theorem witness_SkipStepOnlyMovesPc :
    State.stopped { State.reset with skip := true } = false ∧ ({ State.reset with skip := true } : State).skip = true ∧
    ({ State.reset with skip := true } : State).Unclaimed := by decide

/-- A dispatch is due: R268's own vector (95_test_vectors.md 2.6). -/
def due : State := { ab 0x1111 0 with ia := 0x40, intq := [5], pc := 0x10 }

theorem witness_DispatchStep :
    due.stopped = false ∧ due.skip = false ∧ due.intq = 5 :: [] ∧ due.ia ≠ 0 ∧ due.susp = false ∧ due.Unclaimed ∧
    Memory.wf due.ram = true := by decide

theorem witness_CyclesCountExecutedInstructions :
    (∃ t, step State.reset = .next t) ∧ State.reset.NoDevices ∧ (∃ t, step due = .next t) ∧ due.NoDevices :=
  ⟨⟨_, rfl⟩, by decide, ⟨_, rfl⟩, by decide⟩

theorem witness_OnlyHcfAndReservedOpcodesHalt :
    State.reset.NoDevices ∧ State.reset.reservedExec = false ∧ ∃ t, step State.reset = .next t :=
  ⟨by decide, rfl, ⟨_, rfl⟩⟩

/-- Two devices attached, one of them to line 8, IA = 0, and SET [A], [B] at PC. -/
def attached : State :=
  { ab 0x8000 0x9000 with devs := [7, 3], lines := (State.reset.lines.set 8 (some 7)).set 9 (some 3), ram := [(0, 0x2501)] }

theorem attached_consistent : attached.LinesConsistent := by
  have line : ∀ n : Fin 16, attached.lines[n] = if n = 8 then some 7 else if n = 9 then some 3 else none := by decide +kernel
  refine ⟨fun n d h => ?_, by decide, fun m n d h k => ?_⟩
  · rw [line] at h
    split at h
    · cases h; decide
    · split at h
      · cases h; decide
      · cases h
  · rw [line] at h k
    split at h
    · cases h
      split at k
      · simp_all
      · split at k <;> simp at k
    · split at h
      · cases h
        split at k
        · simp at k
        · split at k
          · simp_all
          · simp at k
      · cases h

theorem reset_inv : State.reset.Inv :=
  ⟨rfl, by decide, by decide, by decide, by intro n d h; simp [State.reset] at h, by decide, by intro m n d h; simp [State.reset] at h⟩

/-- The invariant in a machine with devices that takes a step. -/
theorem witness_StepKeepsInv : attached.Inv ∧ (∃ t, step State.reset = .next t) ∧ State.reset.Inv :=
  ⟨⟨by decide +kernel, by decide, by decide, by decide, attached_consistent⟩, ⟨_, rfl⟩, reset_inv⟩

theorem witness_InvAtReset : attached.LinesConsistent := attached_consistent

/-- Attach of a new device with and without a line, and an image load, in a state that meets the invariant. -/
theorem witness_HostActionsKeepInv :
    attached.Inv ∧ (∃ t, hostAttach 9 attached = .done t) ∧ (∃ t, hostAttachLine 9 15 attached = .done t) ∧
    ∃ t, hostLoad [1, 2] attached = .done t :=
  ⟨witness_StepKeepsInv.1, ⟨_, rfl⟩, ⟨_, rfl⟩, ⟨_, rfl⟩⟩

/-- The dispatch of `due`, and the state it leaves, with its own two stacked words. -/
theorem witness_InterruptRoundTrip :
    (due.stopped = false ∧ due.skip = false ∧ due.intq = 5 :: [] ∧ due.ia ≠ 0 ∧ due.susp = false ∧ due.Unclaimed ∧
      Memory.wf due.ram = true) ∧
    (following due).Unclaimed ∧ step due = .next (following due) ∧ Operand.short 0 ≠ .pop ∧ Operand.short 0 ≠ .push :=
  ⟨by decide, rfl, rfl, by decide, by decide⟩

/-- A step with IA = 0 before and after and a message waiting. -/
theorem witness_DisabledInterruptsAreInert :
    ∃ t, ({ State.reset with intq := [5] } : State).ia = 0 ∧ step { State.reset with intq := [5] } = .next t ∧ t.ia = 0 :=
  ⟨_, rfl, rfl, rfl⟩

/-- A claimed and an unclaimed line, at both ends of a line. -/
theorem witness_LineIsolation :
    (8 : Fin 16).val = (0x8000 : Word).toNat / 4096 ∧ (8 : Fin 16).val = (0x8FFF : Word).toNat / 4096 ∧
    attached.lines[(8 : Fin 16)] = some 7 ∧ (7 : Fin 16).val = (0x7FFF : Word).toNat / 4096 ∧
    attached.lines[(7 : Fin 16)] = none ∧ (0x7FFE : Word) ≠ 0x7FFF := by decide +kernel

/-- A core operation with IA = 0 goes on: no device can raise. -/
theorem memRead_goes_on (a : Word) {s : State} (h : s.ia = 0) : ∃ v t, memRead a s = .ok v t ∧ DeviceEffect s t := by
  have e := memRead_effect a s
  cases c : s.claimant a with
  | none => exact ⟨_, _, memRead_ram c, .refl s⟩
  | some d =>
    obtain ⟨v, t, g⟩ := callDevice_disabled (.onRead d (offsetOf a)) h
    rw [← memRead_claimed c] at g
    rw [g] at e
    exact ⟨v, t, g, e⟩

theorem memWrite_goes_on (a v : Word) {s : State} (h : s.ia = 0) : ∃ t, memWrite a v s = .ok () t ∧ DeviceEffect s t := by
  have e := memWrite_effect a v s
  cases c : s.claimant a with
  | none => rw [memWrite_ram c] at e; exact ⟨_, memWrite_ram c, e⟩
  | some d =>
    obtain ⟨w, t, g⟩ := callDevice_disabled (.onWrite d (offsetOf a) v (s.rawRead a)) h
    have m : memWrite a v s = .ok () t := by rw [memWrite_claimed c, g]; rfl
    rw [m] at e
    exact ⟨t, m, e⟩

/-- SET [A], [B] with both lines claimed completes without a fault, whatever the devices answer. -/
theorem witness_DeviceCallsInOperandOrder :
    ∃ t, attached.claimant (attached.reg .a) = some 7 ∧ attached.claimant (attached.reg .b) = some 3 ∧
      exec (.set (.regInd .a) (.regInd .b)) attached = .next t ∧ t.fault = none := by
  obtain ⟨v, t1, h1, e1⟩ := memRead_goes_on (s := attached) (attached.reg .a) rfl
  obtain ⟨w, t2, h2, e2⟩ := memRead_goes_on (s := t1) (attached.reg .b) (e1.ia.trans rfl)
  obtain ⟨t3, h3, e3⟩ := memWrite_goes_on (s := t2) (attached.reg .a) w (e2.ia.trans (e1.ia.trans rfl))
  have f1 := (memRead_faultTold (attached.reg .a) attached).1 v t1 h1
  have f2 := (memRead_faultTold (attached.reg .b) t1).1 w t2 h2
  have f3 := (memWrite_faultTold (attached.reg .a) w t2).1 () t3 h3
  refine ⟨t3, by decide +kernel, by decide +kernel, ?_, f3.trans (f2.trans (f1.trans rfl))⟩
  simp [exec, execSet, produce, withBasic, resolve, readLoc, writeLoc, h1, h2, h3]

/-- An executed instruction with two devices attached, IA = 0, goes through its ticks without a fault. -/
theorem witness_TicksInAttachmentOrder :
    ∃ t, step { State.reset with devs := [7, 3] } = .next t ∧ State.Executes { State.reset with devs := [7, 3] } ∧ t.marked = false := by
  obtain ⟨v, t1, h1⟩ := callDevice_disabled (.onTick 7 0)
    (s := { State.reset with devs := [7, 3], reservedExec := true, halt := true, pc := 1, cyc := 1 }) rfl
  have e1 := callDevice_effect (.onTick 7 0)
    { State.reset with devs := [7, 3], reservedExec := true, halt := true, pc := 1, cyc := 1 }
  rw [h1] at e1
  obtain ⟨w, t2, h2⟩ := callDevice_disabled (.onTick 3 0) (s := t1) (e1.ia.trans rfl)
  have e2 := callDevice_effect (.onTick 3 0) t1
  rw [h2] at e2
  have f1 := (callDevice_faultTold (.onTick 7 0) _).1 v t1 h1
  have f2 := (callDevice_faultTold (.onTick 3 0) t1).1 w t2 h2
  have g1 : t2.fault = none := f2.trans (f1.trans rfl)
  have g2 : t2.refused = none := e2.refused.trans (e1.refused.trans rfl)
  refine ⟨t2, ?_, by decide, by simp [State.marked, g1, g2]⟩
  show (tickAll 0 [7, 3] { State.reset with devs := [7, 3], reservedExec := true, halt := true, pc := 1, cyc := 1 }).outcome = _
  simp only [tickAll, h1, bind_ok, h2, outcome_ok]

/-- The other clauses of it: a skip step, a dispatch step, a refused step, and an instruction that ends in a fault. -/
theorem witness_TicksInAttachmentOrder_others :
    ({ State.reset with skip := true } : State).skip = true ∧ due.dispatchEligible = true ∧
    ok (step (load [0x0200] State.reset)) (fun t => t.refused.isSome) = true ∧
    ok (exec (.int (.short 3)) full) (fun t => t.marked) = true := by decide +kernel

theorem witness_RamReadAfterWrite :
    Memory.wf State.reset.ram = true ∧ State.reset.claimant 5 = none ∧ (6 : Word) ≠ 5 := by decide

theorem witness_ResetValues : (31 : Nat) < 32 := by decide

/-- Images up to the whole of RAM, and one word too long. -/
theorem witness_ImageLoad :
    Memory.wf State.reset.ram = true ∧ [(1 : Word), 2].length ≤ 65536 ∧ (0 : Nat) < [(1 : Word), 2].length ∧
    [(1 : Word), 2].length ≤ (2 : Word).toNat ∧ (List.replicate 65536 (1 : Word)).length ≤ 65536 ∧
    65536 < (List.replicate 65537 (1 : Word)).length :=
  ⟨rfl, by decide, by decide, by decide, Nat.le_of_eq List.length_replicate,
    Nat.lt_of_lt_of_eq (Nat.lt_succ_self 65536) List.length_replicate.symm⟩

/-- A claimed line, a free line, an unattached device, a device to detach. -/
theorem witness_AttachAndDetach :
    attached.lines[(8#4).toFin] ≠ none ∧ attached.lines[(15#4).toFin] = none ∧ 9 ∉ attached.devs ∧ (7 : DeviceId) ≠ 3 := by
  decide +kernel

/-- A stopped core, a running one, a run that ends, and SET PC, PC, which never ends. -/
theorem witness_RunCommands :
    State.stopped { State.reset with halt := true } = true ∧ State.reset.stopped = false ∧
    RunsUntilHalt State.reset (following State.reset) ∧
    ((load [0x7381] State.reset).Executes ∧ (load [0x7381] State.reset).NoDevices ∧
      (load [0x7381] State.reset).rawRead (load [0x7381] State.reset).pc = 0x7381) :=
  ⟨rfl, rfl, ⟨rfl, 1, rfl⟩, by decide +kernel⟩

theorem witness_DeviceServices :
    State.halt { State.reset with halt := true } = true ∧ attached.claimant 0x8FFF = some 7 := ⟨rfl, by decide +kernel⟩

end Sys2Proof.Tests
end

section
/-! PROOFS. What an instruction leaves unchanged, by one principle: each effect of a meaning is open to the instructions
that have it, so a part of the state that none of an instruction's own effects touches is left as it was. -/

namespace Sys2Proof.Machine
open Sys2Proof

/-- The instructions that write a general register: its destination, I and J of STI and STD, A of RFI (R20). -/
def WritesReg (i : Instr) (r : Reg) : Prop :=
  i.destination = some (.reg r) ∨ (∃ b a, i = .sti b a ∨ i = .std b a) ∧ (r = .i ∨ r = .j) ∨ (∃ a, i = .rfi a) ∧ r = .a

/-- The instructions that move SP: a PUSH or POP operand, SP as destination, JSR and RFI (R22). -/
def MovesSp (i : Instr) : Prop :=
  .push ∈ i.operands ∨ .pop ∈ i.operands ∨ i.destination = some .sp ∨ i.isJsrOrRfi = true

/-- Reads, writes and, in INT, posts leave `f` where the line table is `lines`. -/
structure AccessFrame {α : Type} (i : Instr) (lines : Vector (Option DeviceId) 16) (f : State → α) : Prop where
  read : ∀ a s, s.lines = lines → f (memRead a s).state = f s
  write : ∀ a v s, s.lines = lines → f (memWrite a v s).state = f s
  post : (∃ a, i = .int a) → ∀ m s, f (post m s).state = f s

/-- `f` is a part of the state that none of the effects of `i` touches where the line table is `lines`. A field per effect,
with the instructions that have it; an effect that plainly leaves `f` need not be named. -/
structure FrameOf {α : Type} (i : Instr) (lines : Vector (Option DeviceId) 16) (f : State → α) : Prop
    extends AccessFrame i lines f where
  pc : ∀ s v, f (s.setPc v) = f s := by intros; rfl
  reg : ∀ r, WritesReg i r → ∀ s v, f (s.setReg r v) = f s := by intros; rfl
  sp : MovesSp i → ∀ s v, f (s.setSp v) = f s := by intros; rfl
  ex : i.setsEx = true ∨ i.destination = some .ex → ∀ s v, f (s.setEx v) = f s := by intros; rfl
  skip : i.isConditional = true → ∀ s, f (s.setSkip true) = f s := by intros; rfl
  ia : (∃ a, i = .ias a) → ∀ s v, f (s.setIa v) = f s := by intros; rfl
  susp : (∃ a, i = .rfi a ∨ i = .iaq a) → ∀ s v, f (s.setSusp v) = f s := by intros; rfl
  halt : (∃ a, i = .hcf a) ∨ i.isReserved = true → ∀ s, f (s.setHalt true) = f s := by intros; rfl
  reservedExec : i.isReserved = true → ∀ s, f (s.setReservedExec true) = f s := by intros; rfl
  refused : i.isRefused = true → ∀ s r, f (s.setRefused r) = f s := by intros; rfl

/-- What no device may change, no access changes. -/
theorem AccessFrame.of_device {α : Type} {i : Instr} {lines : Vector (Option DeviceId) 16} {f : State → α}
    (dev : ∀ {s t}, DeviceEffect s t → f t = f s) : AccessFrame i lines f where
  read a s _ := dev (memRead_effect a s)
  write a v s _ := dev (memWrite_effect a v s)
  post _ m s := dev (post_effect m s)

/-- Where no line is claimed a read changes nothing and a write only RAM. -/
theorem AccessFrame.of_unclaimed {α : Type} {i : Instr} {f : State → α} (ram : ∀ s m, f (s.setRam m) = f s)
    (posts : (∃ a, i = .int a) → ∀ m s, f (Machine.post m s).state = f s) : AccessFrame i (Vector.replicate 16 none) f where
  read a s h := by rw [memRead_unclaimed h, state_ok]
  write a v s h := by rw [memWrite_unclaimed h, state_ok, rawWrite_eq, ram]
  post := posts

/-- From the line table `lines`, an operation that went from `s` to `t` left the table and `f`. -/
def Leaves {α : Type} (lines : Vector (Option DeviceId) 16) (f : State → α) (s t : State) : Prop :=
  s.lines = lines → t.lines = lines ∧ f t = f s

/-- A location that operand `o` can resolve to. -/
def LocOf (o : Operand) (l : Loc) : Prop := ∃ s t, resolve o s = .ok l t

namespace FrameOf
variable {α : Type} {i : Instr} {lines : Vector (Option DeviceId) 16} {f : State → α} (p : FrameOf i lines f)

theorem leaves_trans (s t u : State) (a : Leaves lines f s t) (b : Leaves lines f t u) : Leaves lines f s u := fun h =>
  ⟨(b (a h).1).1, (b (a h).1).2.trans (a h).2⟩

theorem leaves_refl (s : State) : Leaves lines f s s := fun h => ⟨h, rfl⟩

theorem leaves_bind {β γ : Type} {s : State} {r : Res β} {k : β → State → Res γ} (h1 : Leaves lines f s r.state)
    (h2 : ∀ v t, r = .ok v t → Leaves lines f t (k v t).state) : Leaves lines f s (r.bind k).state :=
  bind_state leaves_trans h1 h2

include p

theorem memRead (a : Word) (s : State) : Leaves lines f s (memRead a s).state := fun h =>
  ⟨(memRead_effect a s).lines.trans h, p.read a s h⟩

theorem memWrite (a v : Word) (s : State) : Leaves lines f s (memWrite a v s).state := fun h =>
  ⟨(memWrite_effect a v s).lines.trans h, p.write a v s h⟩

theorem setPc (s : State) (v : Word) : Leaves lines f s (s.setPc v) := fun h => ⟨h, p.pc s v⟩

theorem setSp (m : MovesSp i) (s : State) (v : Word) : Leaves lines f s (s.setSp v) := fun h => ⟨h, p.sp m s v⟩

theorem setReg {r : Reg} (w : WritesReg i r) (s : State) (v : Word) : Leaves lines f s (s.setReg r v) := fun h =>
  ⟨h, p.reg r w s v⟩

/-! ## Operands -/

theorem fetch (s : State) : Leaves lines f s (fetch s).state := leaves_bind (p.memRead _ _) fun _ t _ => p.setPc t _

theorem resolve {o : Operand} (ho : o ∈ i.operands) (s : State) : Leaves lines f s (resolve o s).state := by
  cases o with
  | push => exact p.setSp (.inl ho) s _
  | pop => exact p.setSp (.inr (.inl ho)) s _
  | regOff _ | pick | nextInd | nextLit => exact leaves_bind (p.fetch s) fun _ t _ => leaves_refl t
  | _ => exact leaves_refl s

theorem readLoc (l : Loc) (s : State) : Leaves lines f s (readLoc l s).state := by
  cases l with
  | mem a => exact p.memRead a s
  | _ => exact leaves_refl s

/-- A write to the location of the destination operand. -/
theorem writeLoc {o : Operand} {l : Loc} (hd : i.destination = some o) (hl : LocOf o l) (v : Word) (s : State) :
    Leaves lines f s (writeLoc l v s).state := by
  obtain ⟨_, _, e⟩ := hl
  have loc := resolve_loc e
  cases l with
  | reg r => obtain rfl : o = .reg r := loc; exact p.setReg (.inl hd) s v
  | pc => exact p.setPc s v
  | sp => obtain rfl : o = .sp := loc; exact p.setSp (.inr (.inr (.inl hd))) s v
  | ex => obtain rfl : o = .ex := loc; exact fun h => ⟨h, p.ex (.inr hd) s v⟩
  | mem a => exact p.memWrite a v s
  | lit _ => exact leaves_refl s

theorem withBasic {b a : Operand} (ho : i.operands = [b, a]) (s : State) {k : Loc → Word → Word → State → Res Unit}
    (hk : ∀ bl bv av u, LocOf b bl → Leaves lines f u (k bl bv av u).state) :
    Leaves lines f s (withBasic b a s k).state :=
  leaves_bind (p.resolve (by simp [ho]) s) fun bl s1 e => leaves_bind (p.resolve (by simp [ho]) s1) fun _ s2 _ =>
    leaves_bind (p.readLoc bl s2) fun bv s3 _ => leaves_bind (p.readLoc _ s3) fun av u _ => hk bl bv av u ⟨s, s1, e⟩

theorem withSpecial {a : Operand} (ho : i.operands = [a]) (s : State) {k : Loc → Word → State → Res Unit}
    (hk : ∀ al av u, LocOf a al → Leaves lines f u (k al av u).state) : Leaves lines f s (withSpecial a s k).state :=
  leaves_bind (p.resolve (by simp [ho]) s) fun al s1 e => leaves_bind (p.readLoc al s1) fun av u _ => hk al av u ⟨s, s1, e⟩

/-! ## The meanings -/

theorem produce {b a : Operand} (ho : i.operands = [b, a]) (hd : i.destination = some b) {s t : State}
    {g : Word → Word → Word} (h : produce b a s g = .next t) : Leaves lines f s t := by
  rw [← outcome_eq_next.mp h]
  exact p.withBasic ho s fun _ _ _ u hl => p.writeLoc hd hl _ u

theorem produceEx {b a : Operand} (ho : i.operands = [b, a]) (hd : i.destination = some b) (hx : i.setsEx = true)
    {s t : State} {g : Word → Word → Word → Word × Word} (h : produceEx b a s g = .next t) : Leaves lines f s t := by
  rw [← outcome_eq_next.mp h]
  exact p.withBasic ho s fun _ _ _ u hl => leaves_bind (p.writeLoc hd hl _ u) fun _ t _ h => ⟨h, p.ex (.inl hx) t _⟩

theorem conditional {b a : Operand} (ho : i.operands = [b, a]) (hc : i.isConditional = true) {s t : State}
    {c : Word → Word → Bool} (h : conditional b a s c = .next t) : Leaves lines f s t := by
  rw [← outcome_eq_next.mp h]
  refine p.withBasic ho s fun _ bv av u _ => ?_
  rw [state_ok]
  split
  · exact leaves_refl u
  · exact fun h => ⟨h, p.skip hc u⟩

theorem setAndBump {b a : Operand} (ho : i.operands = [b, a]) (hd : i.destination = some b)
    (hij : ∃ b a, i = .sti b a ∨ i = .std b a) {s t : State} {d : Word} (h : setAndBump b a s d = .next t) :
    Leaves lines f s t := by
  rw [← outcome_eq_next.mp h]
  exact p.withBasic ho s fun _ _ _ u hl => leaves_bind (p.writeLoc hd hl _ u) fun _ t _ =>
    leaves_trans _ _ _ (p.setReg (.inr (.inl ⟨hij, .inl rfl⟩)) t _) (p.setReg (.inr (.inl ⟨hij, .inr rfl⟩)) _ _)

theorem reservedHalt (hr : i.isReserved = true) (s : State) : Leaves lines f s (reservedHalt s).state := fun h =>
  ⟨h, (p.halt (.inr hr) _).trans (p.reservedExec hr s)⟩

theorem reservedBasic {b a : Operand} (ho : i.operands = [b, a]) (hr : i.isReserved = true) {s t : State}
    (h : reservedBasic b a s = .next t) : Leaves lines f s t := by
  rw [← outcome_eq_next.mp h]
  exact leaves_bind (p.resolve (by simp [ho]) s) fun _ s1 _ =>
    leaves_bind (p.resolve (by simp [ho]) s1) fun _ u _ => p.reservedHalt hr u

theorem reservedSpecial {a : Operand} (ho : i.operands = [a]) (hr : i.isReserved = true) {s t : State}
    (h : reservedSpecial a s = .next t) : Leaves lines f s t := by
  rw [← outcome_eq_next.mp h]
  exact leaves_bind (p.resolve (by simp [ho]) s) fun _ u _ => p.reservedHalt hr u

theorem special {a : Operand} (ho : i.operands = [a]) {s t : State} {k : Loc → Word → State → Res Unit}
    (h : (Machine.withSpecial a s k).outcome = .next t)
    (hk : ∀ al av u, LocOf a al → Leaves lines f u (k al av u).state) : Leaves lines f s t := by
  rw [← outcome_eq_next.mp h]
  exact p.withSpecial ho s hk

theorem pushWord (m : MovesSp i) (v : Word) (s : State) : Leaves lines f s (pushWord v s).state :=
  leaves_trans _ _ _ (p.setSp m s _) (p.memWrite _ _ _)

theorem popWord (m : MovesSp i) (s : State) : Leaves lines f s (popWord s).state :=
  leaves_bind (p.memRead _ _) fun _ t _ => p.setSp m t _

theorem returnFromInterrupt (hi : ∃ a, i = .rfi a) (s : State) : Leaves lines f s (returnFromInterrupt s).state := by
  obtain ⟨o, rfl⟩ := hi
  have m : MovesSp (.rfi o) := .inr (.inr (.inr rfl))
  exact leaves_bind (p.popWord m s) fun v t _ =>
    leaves_trans _ _ _ (p.setReg (.inr (.inr ⟨⟨o, rfl⟩, rfl⟩)) t v) (leaves_bind (p.popWord m _) fun w u _ =>
      leaves_trans _ _ _ (p.setPc u w) fun h => ⟨h, p.susp ⟨o, .inl rfl⟩ _ false⟩)

/-- Arm by arm: the effects of each meaning are among those open to its instruction. -/
theorem exec_leaves {s t : State} (h : exec i s = .next t) : Leaves lines f s t := by
  cases i with
  | set b a | mod b a | mdi b a | and b a | bor b a | xor b a => exact p.produce (b := b) (a := a) rfl rfl h
  | add b a => exact p.produceEx (i := .add b a) rfl rfl rfl (show execAdd b a s = _ from h)
  | sub b a => exact p.produceEx (i := .sub b a) rfl rfl rfl (show execSub b a s = _ from h)
  | mul b a => exact p.produceEx (i := .mul b a) rfl rfl rfl (show execMul b a s = _ from h)
  | mli b a => exact p.produceEx (i := .mli b a) rfl rfl rfl (show execMli b a s = _ from h)
  | div b a => exact p.produceEx (i := .div b a) rfl rfl rfl (show execDiv b a s = _ from h)
  | dvi b a => exact p.produceEx (i := .dvi b a) rfl rfl rfl (show execDvi b a s = _ from h)
  | shr b a => exact p.produceEx (i := .shr b a) rfl rfl rfl (show execShr b a s = _ from h)
  | asr b a => exact p.produceEx (i := .asr b a) rfl rfl rfl (show execAsr b a s = _ from h)
  | shl b a => exact p.produceEx (i := .shl b a) rfl rfl rfl (show execShl b a s = _ from h)
  | adx b a => exact p.produceEx (i := .adx b a) rfl rfl rfl (show execAdx b a s = _ from h)
  | sbx b a => exact p.produceEx (i := .sbx b a) rfl rfl rfl (show execSbx b a s = _ from h)
  | ifb b a | ifc b a | ife b a | ifn b a | ifg b a | ifa b a | ifl b a | ifu b a =>
    exact p.conditional (b := b) (a := a) rfl rfl h
  | reservedBasic18 b a | reservedBasic19 b a | reservedBasic1C b a | reservedBasic1D b a =>
    exact p.reservedBasic (b := b) (a := a) rfl rfl h
  | sti b a => exact p.setAndBump (b := b) (a := a) rfl rfl ⟨b, a, .inl rfl⟩ h
  | std b a => exact p.setAndBump (b := b) (a := a) rfl rfl ⟨b, a, .inr rfl⟩ h
  | jsr a => exact p.special rfl h fun _ av u _ =>
      leaves_bind (p.pushWord (.inr (.inr (.inr rfl))) _ u) fun _ t _ => p.setPc t av
  | hcf a => exact p.special rfl h fun _ _ u _ h => ⟨h, p.halt (.inl ⟨a, rfl⟩) u⟩
  | int a => exact p.special rfl h fun _ av u _ h => ⟨(post_effect av u).lines.trans h, p.post ⟨a, rfl⟩ av u⟩
  | iag a => exact p.special rfl h fun al _ u hl => p.writeLoc rfl hl u.ia u
  | ias a => exact p.special rfl h fun _ av u _ h => ⟨h, p.ia ⟨a, rfl⟩ u av⟩
  | rfi a => exact p.special rfl h fun _ _ u _ => p.returnFromInterrupt ⟨a, rfl⟩ u
  | iaq a => exact p.special rfl h fun _ av u _ h => ⟨h, p.susp ⟨a, .inr rfl⟩ u (av != 0)⟩
  | hwn a | hwq a | hwi a => cases h; exact fun h => ⟨h, p.refused rfl s _⟩
  | _ a => exact p.reservedSpecial (a := a) rfl rfl h

/-- An instruction leaves what none of its effects touches. -/
theorem exec {s t : State} (h : exec i s = .next t) (hs : s.lines = lines) : f t = f s := (p.exec_leaves h hs).2

end FrameOf
end Sys2Proof.Machine
end

section
/-! PROOFS. The frames of an instruction (10_state.md R22-R32): which instruction may change which piece of state. -/

namespace Sys2Proof.Machine
open Sys2Proof

/-- A post changes INTQ or sets FAULT, nothing else (R263, R264). -/
theorem post_frame (m : Word) (s : State) :
    (post m s).state = { s with intq := (post m s).state.intq, fault := (post m s).state.fault } := by
  unfold post
  split
  · rfl
  · rcases enqueue_cases m s with ⟨_, q⟩ | ⟨_, q⟩ <;> rw [q] <;> rfl

section Fields
variable {i : Instr} {s t : State} (e : exec i s = .next t)
include e

/-! ## On every machine -/

/-- No instruction changes PC0, SP0, the queue capacity, LINE or DEVS (R24, R36). -/
theorem exec_config :
    (t.pc0, t.sp0, t.intQueueCap, t.lines, t.devs) = (s.pc0, s.sp0, s.intQueueCap, s.lines, s.devs) :=
  FrameOf.exec (f := fun s => (s.pc0, s.sp0, s.intQueueCap, s.lines, s.devs))
    { toAccessFrame := .of_device fun d => by rw [d.frame] } e rfl

theorem exec_devs : t.devs = s.devs := congrArg (·.2.2.2.2) (exec_config e)

/-- SKIP is set by the conditionals alone (R25). -/
theorem exec_skip (h : i.isConditional = false) : t.skip = s.skip :=
  FrameOf.exec (f := State.skip)
    { toAccessFrame := .of_device DeviceEffect.skip, skip c := absurd c (by simp [h]) } e rfl

/-- IA is written by IAS alone (R26). -/
theorem exec_ia (h : ∀ a, i ≠ .ias a) : t.ia = s.ia :=
  FrameOf.exec (f := State.ia)
    { toAccessFrame := .of_device DeviceEffect.ia, ia c := absurd c (not_exists.mpr h) } e rfl

/-- SUSP is written by RFI and IAQ alone (R27). -/
theorem exec_susp (hr : ∀ a, i ≠ .rfi a) (hq : ∀ a, i ≠ .iaq a) : t.susp = s.susp :=
  FrameOf.exec (f := State.susp)
    { toAccessFrame := .of_device DeviceEffect.susp, susp c := absurd c (by simp [hr, hq]) } e rfl

/-- RESERVED_EXEC is set by the reserved opcodes alone (R30). -/
theorem exec_reservedExec (h : i.isReserved = false) : t.reservedExec = s.reservedExec :=
  FrameOf.exec (f := State.reservedExec)
    { toAccessFrame := .of_device DeviceEffect.reservedExec, reservedExec c := absurd c (by simp [h]) } e rfl

/-- REFUSED is set by HWN, HWQ and HWI alone (R31). -/
theorem exec_refused (h : i.isRefused = false) : t.refused = s.refused :=
  FrameOf.exec (f := State.refused)
    { toAccessFrame := .of_device DeviceEffect.refused, refused c := absurd c (by simp [h]) } e rfl

/-- EX is written by the eleven instructions that set it, and as a destination (R23). -/
theorem exec_ex (hx : i.setsEx = false) (hd : i.destination ≠ some .ex) : t.ex = s.ex :=
  FrameOf.exec (f := State.ex)
    { toAccessFrame := .of_device DeviceEffect.ex, ex c := absurd c (by simp [hx, hd]) } e rfl

/-- SP is moved by nothing but what `MovesSp` names (R22). -/
theorem exec_sp (h : ¬ MovesSp i) : t.sp = s.sp :=
  FrameOf.exec (f := State.sp) { toAccessFrame := .of_device DeviceEffect.sp, sp c := absurd c h } e rfl

/-! ## Where no line is claimed -/

variable (h : s.Unclaimed)
include h

/-- No instruction changes CYC or calls a device (R32). -/
theorem exec_cyc_calls : (t.cyc, t.calls) = (s.cyc, s.calls) :=
  FrameOf.exec (f := fun s => (s.cyc, s.calls))
    { toAccessFrame := .of_unclaimed (fun _ _ => rfl) fun _ m u => by rw [post_frame] } e h

/-- INTQ and FAULT are changed by INT alone (R28, R31). -/
theorem exec_intq_fault (hi : ∀ a, i ≠ .int a) : (t.intq, t.fault) = (s.intq, s.fault) :=
  FrameOf.exec (f := fun s => (s.intq, s.fault))
    { toAccessFrame := .of_unclaimed (fun _ _ => rfl) fun c => absurd c (not_exists.mpr hi) } e h

/-- HALT is set by HCF and the reserved opcodes alone (R29). -/
theorem exec_halt (hh : ∀ a, i ≠ .hcf a) (hr : i.isReserved = false) : t.halt = s.halt :=
  FrameOf.exec (f := State.halt)
    { toAccessFrame := .of_unclaimed (fun _ _ => rfl) fun _ m u => by rw [post_frame]
      halt c := absurd c (by simp [hh, hr]) } e h

end Fields

/-- Settles O34: a case of the frame principle for each field. -/
theorem frameOfControlState : Obligations.FrameOfControlState := by
  intro i s t e
  have config := exec_config e
  simp only [Prod.mk.injEq] at config
  obtain ⟨pc0, sp0, cap, lines, devs⟩ := config
  exact ⟨pc0, sp0, cap, lines, devs, exec_skip e, exec_ia e, exec_susp e, exec_reservedExec e, exec_refused e⟩

/-- Settles O35: with no line claimed, reads change nothing, writes change RAM only, and only INT posts. -/
theorem frameOfQueueHaltAndCycles : Obligations.FrameOfQueueHaltAndCycles := by
  intro i s t h e
  have ⟨cyc, calls⟩ := Prod.mk.inj (exec_cyc_calls e h)
  exact ⟨cyc, calls, fun hi => Prod.mk.inj (exec_intq_fault e h hi), exec_halt e h⟩

/-- Settles O36: the frame principle for EX; the rest reads off the decoder and the resolver. -/
theorem frameOfEx : Obligations.FrameOfEx := by
  refine ⟨fun i s t => exec_ex, by decide, by decide, fun b a i hi => ?_, fun s v => ⟨rfl, rfl, rfl⟩⟩
  simp only [List.mem_cons, List.not_mem_nil, or_false] at hi
  rcases hi with rfl | rfl | rfl | rfl | rfl | rfl | rfl | rfl | rfl | rfl | rfl <;> rfl

/-- Settles O37: what the statement excludes is all that `MovesSp` names. -/
theorem frameOfSp : Obligations.FrameOfSp := by
  intro i s t e hpush hpop hd hj
  exact exec_sp e (by simp [MovesSp, hpush, hpop, hd, hj])

end Sys2Proof.Machine
end

section
/-! PROOFS. What a step can be, and from that CYC and HALT over a step (R29, R30, R32, R147). -/

namespace Sys2Proof.Machine
open Sys2Proof

/-- A step that answers a next state is a skip step, a dispatch or an instruction step, of a core that is not stopped
(R140). -/
theorem step_cases {s t : State} (h : step s = .next t) : s.stopped = false ∧
    ((s.skip = true ∧ (skipStep s).state = t) ∨
      (s.skip = false ∧ s.dispatchEligible = true ∧ ∃ m rest, s.intq = m :: rest ∧
        (enterHandler m (s.setIntq rest)).state = t) ∨
      (s.Executes ∧ execStep s = .next t)) := by
  have run : s.stopped = false := by
    cases k : s.stopped with
    | false => rfl
    | true => rcases step_stopped k with ⟨_, e⟩ | ⟨_, e⟩ <;> simp [e] at h
  refine ⟨run, ?_⟩
  cases k : s.skip with
  | true => exact .inl ⟨rfl, outcome_eq_next.mp (step_skip run k ▸ h)⟩
  | false =>
    cases d : s.dispatchEligible with
    | true =>
      rw [step_dispatch run k d] at h
      cases q : s.intq with
      | nil => simp [State.dispatchEligible, q] at d
      | cons m rest =>
        exact .inr (.inl ⟨rfl, rfl, m, rest, rfl, outcome_eq_next.mp (by simpa [dispatch, q] using h)⟩)
    | false => exact .inr (.inr ⟨⟨run, k, d⟩, step_exec ⟨run, k, d⟩ ▸ h⟩)

/-- An instruction step ends in its opcode fetch, in its meaning, or after CYC and the ticks (R142, R147). -/
theorem execStep_cases {s t : State} (h : execStep s = .next t) :
    fetch s.captureShadows = .raised t ∨ ∃ w u v, fetch s.captureShadows = .ok w u ∧ exec (decode w) u = .next v ∧
      ((v.marked = true ∧ t = v) ∨ (v.marked = false ∧ (retire w v).state = t)) := by
  unfold execStep at h
  cases f : fetch s.captureShadows with
  | raised u => rw [f] at h; cases h; exact .inl rfl
  | ok w u =>
    obtain ⟨v, e⟩ := exec_next (decode w) u
    simp only [f, e, finishStep] at h
    refine .inr ⟨w, u, v, rfl, e, ?_⟩
    cases m : v.marked with
    | true => simp [m] at h; exact .inl ⟨rfl, h.symm⟩
    | false => simp [m] at h; exact .inr ⟨rfl, outcome_eq_next.mp h⟩

/-- No step lowers CYC, whatever the devices do. -/
theorem step_cyc_le {s t : State} (h : step s = .next t) : s.cyc ≤ t.cyc := by
  obtain ⟨-, ⟨-, rfl⟩ | ⟨-, -, m, rest, -, rfl⟩ | ⟨-, h⟩⟩ := step_cases h
  · exact bind_state (P := fun a b => a.cyc ≤ b.cyc) (fun _ _ _ => Nat.le_trans)
      (memRead_effect s.pc s.captureShadows).cyc_le fun _ u _ => Nat.le_refl u.cyc
  · exact (keeps_respected.enterHandler m (s.setIntq rest)).cyc_le
  · rcases execStep_cases h with f | ⟨w, u, v, f, e, end_⟩
    · simpa [f] using (fetch_effect s.captureShadows).keeps.cyc_le
    · have fetched : s.cyc ≤ u.cyc := by simpa [f] using (fetch_effect s.captureShadows).keeps.cyc_le
      have ran : u.cyc ≤ v.cyc := (keeps_respected.exec _ e).cyc_le
      rcases end_ with ⟨-, rfl⟩ | ⟨-, rfl⟩
      · exact fetched.trans ran
      · have ticked : v.cyc + 1 ≤ (retire w v).state.cyc := (tickAll_effect w v.devs (v.addCyc 1)).cyc_le
        omega

section NoDevices
variable {s t : State} (n : s.NoDevices)
include n

/-- With no device an instruction step is the decoded instruction, and CYC one higher unless that left a mark. -/
theorem execStep_noDevices : ∃ v, exec (decode (s.rawRead s.pc)) (s.captureShadows.setPc (s.pc + 1)) = .next v ∧
    execStep s = .next (if v.marked then v else v.addCyc 1) := by
  obtain ⟨v, e⟩ := exec_next (decode (s.rawRead s.pc)) (s.captureShadows.setPc (s.pc + 1))
  refine ⟨v, e, ?_⟩
  rw [execStep_unclaimed n.1, e, finishStep, retire_noDevices _ ((exec_devs e).trans n.2)]
  split <;> rfl

/-- With no device a step that is no instruction's leaves CYC, HALT and RESERVED_EXEC; an instruction's step leaves HALT and
RESERVED_EXEC as the decoded instruction does, and CYC one higher unless that left a mark. -/
theorem step_noDevices (h : step s = .next t) :
    (¬ s.Executes ∧ t.cyc = s.cyc ∧ t.halt = s.halt ∧ t.reservedExec = s.reservedExec) ∨
    (s.Executes ∧ ∃ v, exec (decode (s.rawRead s.pc)) (s.captureShadows.setPc (s.pc + 1)) = .next v ∧
      t = if v.marked then v else v.addCyc 1) := by
  obtain ⟨-, ⟨k, rfl⟩ | ⟨-, d, m, rest, -, rfl⟩ | ⟨x, h⟩⟩ := step_cases h
  · rw [skipStep_unclaimed n.1]
    exact .inl ⟨by simp [State.Executes, k], rfl, rfl, rfl⟩
  · rw [enterHandler_unclaimed (s := s.setIntq rest) n.1]
    exact .inl ⟨by simp [State.Executes, d], rfl, rfl, rfl⟩
  · obtain ⟨v, e, f⟩ := execStep_noDevices n
    exact .inr ⟨x, v, e, Host.Outcome.next.inj (h.symm.trans f)⟩

end NoDevices

/-- Settles O44: CYC is changed by devices, which only add to it, and by the end of an instruction step. -/
theorem cyclesCountExecutedInstructions : Obligations.CyclesCountExecutedInstructions := by
  refine fun s t h => ⟨step_cyc_le h, fun n => ?_⟩
  have run := (step_cases h).1
  rcases step_noDevices n h with ⟨x, cyc, -, -⟩ | ⟨⟨-, k, d⟩, v, e, rfl⟩
  · have : ¬ (s.skip = false ∧ s.dispatchEligible = false ∧ t.marked = false) := fun ⟨k, d, _⟩ => x ⟨run, k, d⟩
    rw [if_neg this, cyc, Nat.add_zero]
  · have cyc : v.cyc = s.cyc := (Prod.mk.inj (exec_cyc_calls e n.1)).1
    cases m : v.marked with
    | true => simp [k, d, m, cyc]
    | false =>
      have : (v.addCyc 1).marked = false := m
      simp [k, d, this, cyc]

/-- A reserved opcode is run as one (R230). -/
theorem exec_reserved {i : Instr} (h : i.isReserved = true) (s : State) :
    (∃ b a, exec i s = reservedBasic b a s) ∨ ∃ a, exec i s = reservedSpecial a s := by
  cases i with
  | reservedBasic18 b a | reservedBasic19 b a | reservedBasic1C b a | reservedBasic1D b a => exact .inl ⟨b, a, rfl⟩
  | set _ _ | add _ _ | sub _ _ | mul _ _ | mli _ _ | div _ _ | dvi _ _ | mod _ _ | mdi _ _ | and _ _ | bor _ _ | xor _ _
  | shr _ _ | asr _ _ | shl _ _ | ifb _ _ | ifc _ _ | ife _ _ | ifn _ _ | ifg _ _ | ifa _ _ | ifl _ _ | ifu _ _ | adx _ _
  | sbx _ _ | sti _ _ | std _ _ => cases h
  | jsr _ | hcf _ | int _ | iag _ | ias _ | rfi _ | iaq _ | hwn _ | hwq _ | hwi _ => cases h
  | _ a => exact .inr ⟨a, rfl⟩

section Unclaimed
variable {i : Instr} {s t : State} (e : exec i s = .next t) (h : s.Unclaimed)
include e h

/-- A reserved opcode sets HALT and RESERVED_EXEC (R230). -/
theorem exec_reserved_sets (r : i.isReserved = true) : t.halt = true ∧ t.reservedExec = true := by
  have resolved : ∀ o, (plainResolve o s).2.lines = Vector.replicate 16 none := fun o => (plainResolve_lines o s).trans h
  rcases exec_reserved r s with ⟨b, a, k⟩ | ⟨a, k⟩
  · rw [k, reservedBasic, resolve_unclaimed h, bind_ok, resolve_unclaimed (resolved b)] at e
    cases e
    exact ⟨rfl, rfl⟩
  · rw [k, reservedSpecial, resolve_unclaimed h] at e
    cases e
    exact ⟨rfl, rfl⟩

/-- Where no line is claimed an instruction halts a running core exactly if it is HCF or reserved. -/
theorem exec_halt_iff (hs : s.halt = false) : t.halt = true ↔ (∃ a, i = .hcf a) ∨ i.isReserved = true := by
  refine ⟨fun ht => ?_, ?_⟩
  · by_contra c
    simp only [not_or, not_exists, Bool.not_eq_true] at c
    simp [exec_halt e h c.1 c.2, hs] at ht
  · rintro (⟨a, rfl⟩ | r)
    · have k : exec (.hcf a) s = .next ((s.specialOperand a).after.setHalt true) := by
        show execHcf a s = _
        rw [execHcf, withSpecial_unclaimed h, outcome_ok]
      cases k ▸ e
      rfl
    · exact (exec_reserved_sets e h r).1

/-- Where no line is claimed an instruction sets RESERVED_EXEC exactly if it is reserved. -/
theorem exec_reservedExec_iff (hs : s.reservedExec = false) : t.reservedExec = true ↔ i.isReserved = true := by
  refine ⟨fun ht => ?_, fun r => (exec_reserved_sets e h r).2⟩
  by_contra c
  simp [exec_reservedExec e (by simpa using c), hs] at ht

end Unclaimed

/-- Settles O46: with no device only the decoded instruction of an instruction step can set HALT or RESERVED_EXEC. -/
theorem onlyHcfAndReservedOpcodesHalt : Obligations.OnlyHcfAndReservedOpcodesHalt := by
  intro s t n h
  have running : s.halt = false := (stopped_eq_false.mp (step_cases h).1).1
  rcases step_noDevices n h with ⟨x, -, halt, reserved⟩ | ⟨x, v, e, rfl⟩
  · exact ⟨by simp [halt, running, x], fun r => by simp [reserved, r, x]⟩
  · have halt := exec_halt_iff e n.1 running
    have reserved := exec_reservedExec_iff e n.1
    have same : (if v.marked then v else v.addCyc 1).halt = v.halt ∧
        (if v.marked then v else v.addCyc 1).reservedExec = v.reservedExec := by split <;> exact ⟨rfl, rfl⟩
    rw [same.1, same.2, halt]
    exact ⟨(and_iff_right x).symm, fun r => (reserved r).trans (and_iff_right x).symm⟩

end Sys2Proof.Machine
end

section
/-! PROOFS. The state after reset (R40, R300). -/

namespace Sys2Proof.Machine
open Sys2Proof

/-- Settles O48: with RAM and the queue empty and no mark, all that is left is LINE and DEVS. -/
theorem invAtReset : Obligations.InvAtReset := by
  have main : ∀ s : State, s.LinesConsistent → (hostReset s).Inv := fun s h =>
    ⟨rfl, Nat.zero_le _, fun r => (nomatch r), fun f => (nomatch f), h⟩
  refine ⟨main State.reset ?_, main⟩
  have free : ∀ n : Fin 16, State.reset.lines[n] = none := by decide
  exact ⟨fun n d h => by simp [free] at h, List.nodup_nil, fun m n d h => by simp [free] at h⟩

/-- Settles O55: `hostReset` replaces every field but LINE, DEVS, the capacity and the log of calls. -/
theorem resetValues : Obligations.ResetValues := by
  refine ⟨fun s => ⟨fun r => ?_, rfl, rfl, rfl, rfl, rfl, rfl, rfl, rfl, rfl, rfl, rfl, rfl, rfl, rfl, fun _ => rfl, rfl, rfl,
    rfl, rfl⟩, rfl, by decide, by decide⟩
  cases r <;> rfl

end Sys2Proof.Machine
end

section
/-! PROOFS. RAM: what a write leaves, and the one word an instruction can change where no line is claimed (R53, R64). -/

namespace Sys2Proof.Machine
open Sys2Proof

/-- Settles O54: the laws of canonical cells, and the multiplexer where the line is unclaimed. -/
theorem ramReadAfterWrite : Obligations.RamReadAfterWrite := by
  intro s x v canonical
  exact ⟨⟨rawRead_rawWrite_same x v canonical, fun y hy => rawRead_rawWrite_other s v hy, wf_write x v canonical, rfl⟩,
    memWrite_ram⟩

/-- Every word of RAM but the one at the address, if any, reads in `t` as in `s`. -/
def SameRamBut (address : Option Word) (s t : State) : Prop := ∀ x, address ≠ some x → t.rawRead x = s.rawRead x

theorem sameRamBut_of_ram {address : Option Word} {s t : State} (h : t.ram = s.ram) : SameRamBut address s t :=
  fun x _ => rawRead_congr h x

theorem plainResolve_ram (o : Operand) (s : State) : (plainResolve o s).2.ram = s.ram := by cases o <;> rfl

theorem basicOperands_ram (s : State) (b a : Operand) : (s.basicOperands b a).after.ram = s.ram :=
  (plainResolve_ram a _).trans (plainResolve_ram b s)

theorem specialOperand_ram (s : State) (a : Operand) : (s.specialOperand a).after.ram = s.ram := plainResolve_ram a s

/-- A write changes the word at its location's address alone (R126). -/
theorem plainWrite_sameRam (l : Loc) (v : Word) {s u : State} (h : u.ram = s.ram) :
    SameRamBut l.address s (plainWrite l v u) := by
  cases l with
  | mem a =>
    intro x hx
    have other : x ≠ a := fun e => hx (congrArg some e.symm)
    exact (rawRead_rawWrite_other u v other).trans (rawRead_congr h x)
  | _ => exact sameRamBut_of_ram h

section Unclaimed
variable {s t : State} (h : s.Unclaimed) {b a : Operand}
include h

theorem produce_sameRam {f : Word → Word → Word} (e : produce b a s f = .next t) :
    SameRamBut (s.basicOperands b a).loc.address s t := by
  cases (produce_unclaimed h b a f).symm.trans e
  exact plainWrite_sameRam _ _ (basicOperands_ram s b a)

theorem produceEx_sameRam {f : Word → Word → Word → Word × Word} (e : produceEx b a s f = .next t) :
    SameRamBut (s.basicOperands b a).loc.address s t := by
  cases (produceEx_unclaimed h b a f).symm.trans e
  exact plainWrite_sameRam _ _ (basicOperands_ram s b a)

theorem setAndBump_sameRam {d : Word} (e : setAndBump b a s d = .next t) :
    SameRamBut (s.basicOperands b a).loc.address s t := by
  rw [setAndBump, withBasic_unclaimed h, writeLoc_unclaimed ((basicOperands_lines s b a).trans h)] at e
  cases e
  exact plainWrite_sameRam _ _ (basicOperands_ram s b a)

theorem conditional_ram {c : Word → Word → Bool} (e : conditional b a s c = .next t) : t.ram = s.ram := by
  cases (conditional_unclaimed h b a c).symm.trans e
  split <;> exact basicOperands_ram s b a

theorem reservedBasic_ram (e : reservedBasic b a s = .next t) : t.ram = s.ram := by
  rw [reservedBasic, resolve_unclaimed h, bind_ok, resolve_unclaimed ((plainResolve_lines b s).trans h)] at e
  cases e
  exact basicOperands_ram s b a

theorem reservedSpecial_ram (e : reservedSpecial a s = .next t) : t.ram = s.ram := by
  rw [reservedSpecial, resolve_unclaimed h] at e
  cases e
  exact plainResolve_ram a s

/-- A special instruction whose effect leaves RAM leaves it. -/
theorem special_ram {k : Loc → Word → State → Res Unit} (e : (withSpecial a s k).outcome = .next t)
    (hk : ∀ al av u, u.Unclaimed → (k al av u).state.ram = u.ram) : t.ram = s.ram := by
  rw [withSpecial_unclaimed h] at e
  rw [← outcome_eq_next.mp e, hk _ _ _ ((specialOperand_lines s a).trans h), specialOperand_ram]

/-- IAG stores IA at its operand's location (R223). -/
theorem iag_sameRam (e : execIag a s = .next t) : SameRamBut (s.specialOperand a).loc.address s t := by
  rw [execIag, withSpecial_unclaimed h, writeLoc_unclaimed ((specialOperand_lines s a).trans h)] at e
  cases e
  exact plainWrite_sameRam _ _ (specialOperand_ram s a)

/-- JSR stores PC in the slot below SP (R220). -/
theorem jsr_sameRam (e : execJsr a s = .next t) : SameRamBut (some ((s.specialOperand a).after.sp - 1)) s t := by
  rw [execJsr, withSpecial_unclaimed h, pushWord_unclaimed ((specialOperand_lines s a).trans h)] at e
  cases e
  exact plainWrite_sameRam (.mem ((s.specialOperand a).after.sp - 1)) (s.specialOperand a).after.pc
    (u := (s.specialOperand a).after.setSp _) (specialOperand_ram s a)

/-- Arm by arm: an instruction changes no word of RAM but the one at the address it stores to. -/
theorem exec_sameRam {i : Instr} (e : exec i s = .next t) : SameRamBut (storeAddress i s) s t := by
  cases i with
  | set b a | mod b a | mdi b a | and b a | bor b a | xor b a => exact produce_sameRam (b := b) (a := a) h e
  | add b a => exact produceEx_sameRam h (show execAdd b a s = _ from e)
  | sub b a => exact produceEx_sameRam h (show execSub b a s = _ from e)
  | mul b a => exact produceEx_sameRam h (show execMul b a s = _ from e)
  | mli b a => exact produceEx_sameRam h (show execMli b a s = _ from e)
  | div b a => exact produceEx_sameRam h (show execDiv b a s = _ from e)
  | dvi b a => exact produceEx_sameRam h (show execDvi b a s = _ from e)
  | shr b a => exact produceEx_sameRam h (show execShr b a s = _ from e)
  | asr b a => exact produceEx_sameRam h (show execAsr b a s = _ from e)
  | shl b a => exact produceEx_sameRam h (show execShl b a s = _ from e)
  | adx b a => exact produceEx_sameRam h (show execAdx b a s = _ from e)
  | sbx b a => exact produceEx_sameRam h (show execSbx b a s = _ from e)
  | sti b a | std b a => exact setAndBump_sameRam (b := b) (a := a) h e
  | ifb b a | ifc b a | ife b a | ifn b a | ifg b a | ifa b a | ifl b a | ifu b a =>
    exact sameRamBut_of_ram (conditional_ram (b := b) (a := a) h e)
  | reservedBasic18 b a | reservedBasic19 b a | reservedBasic1C b a | reservedBasic1D b a =>
    exact sameRamBut_of_ram (reservedBasic_ram (b := b) (a := a) h e)
  | jsr a => exact jsr_sameRam h e
  | iag a => exact iag_sameRam h e
  | hcf a | ias a | iaq a => exact sameRamBut_of_ram (special_ram h e fun _ _ _ _ => rfl)
  | int a => exact sameRamBut_of_ram (special_ram h e fun _ av u _ => by rw [post_frame])
  | rfi a =>
    exact sameRamBut_of_ram (special_ram h e fun _ _ u hu => by rw [returnFromInterrupt_unclaimed hu]; rfl)
  | hwn a | hwq a | hwi a => cases e; exact sameRamBut_of_ram rfl
  | _ a => exact sameRamBut_of_ram (reservedSpecial_ram (a := a) h e)

end Unclaimed

/-- Settles O38: the frame above, one word at a time. -/
theorem frameOfMemory : Obligations.FrameOfMemory := fun _ _ _ x h e => exec_sameRam h e x

end Sys2Proof.Machine
end

section
/-! PROOFS. The invariant is kept: by every step, and by every host action between steps (R36, R60-R62, R264, R276). -/

namespace Sys2Proof.Machine
open Sys2Proof

/-! ## Steps -/

theorem captureShadows_keeps (s : State) : Keeps s s.captureShadows :=
  ⟨rfl, rfl, rfl, Nat.le_refl _, id, id, fun a b => ⟨a, b⟩, id⟩

/-- A skip step reads its opcode word through the multiplexer and moves PC, the shadows and SKIP (R143). -/
theorem skipStep_keeps (s : State) : Keeps s (skipStep s).state :=
  (captureShadows_keeps s).trans _ _ _ <| keeps_respected.bind (keeps_respected.read _ _) fun w t =>
    keeps_respected.plain t t.regs (t.pc + BitVec.ofNat 16 (wordLength w)) t.sp t.ex false t.ia t.susp t.refused

/-- The end of an instruction: CYC is raised and the devices are ticked (R147, R148). -/
theorem retire_keeps (w : Word) (s : State) : Keeps s (retire w s).state :=
  Keeps.trans _ (s.addCyc 1) _ (serveRequest_effect (.addCycles 1) s).keeps (tickAll_effect w s.devs _).keeps

/-- An instruction step keeps the invariant's ingredients in its fetch, its meaning and its end. -/
theorem execStep_keeps {s t : State} (h : execStep s = .next t) : Keeps s t := by
  have fetched : Keeps s (fetch s.captureShadows).state :=
    (captureShadows_keeps s).trans _ _ _ (keeps_respected.fetch _)
  rcases execStep_cases h with f | ⟨w, u, v, f, e, ⟨-, rfl⟩ | ⟨-, rfl⟩⟩ <;> rw [f] at fetched
  · exact fetched
  · exact fetched.trans _ _ _ (keeps_respected.exec _ e)
  · exact (fetched.trans _ _ _ (keeps_respected.exec _ e)).trans _ _ _ (retire_keeps w v)

/-- Taking messages off the queue of an unfaulted core keeps the invariant. -/
theorem inv_setIntq {s : State} {q : List Word} (hs : s.Inv) (unfaulted : s.fault = none) (h : q.length ≤ s.intq.length) :
    (s.setIntq q).Inv := by
  obtain ⟨ram, queue, reserved, -, lines⟩ := hs
  exact ⟨ram, h.trans queue, reserved, by simp [unfaulted], lines⟩

/-- Settles O47: a skip step and an instruction step keep each ingredient; a dispatch first takes the queue's head, which an
unfaulted core may lose. -/
theorem stepKeepsInv : Obligations.StepKeepsInv := by
  intro s t hs h
  obtain ⟨run, ⟨-, rfl⟩ | ⟨-, -, m, rest, q, rfl⟩ | ⟨-, h⟩⟩ := step_cases h
  · exact (skipStep_keeps s).inv hs
  · have unfaulted : s.fault = none := (stopped_eq_false.mp run).2.1
    exact (keeps_respected.enterHandler m _).inv (inv_setIntq hs unfaulted (by simp [q]))
  · exact (execStep_keeps h).inv hs

/-! ## Host actions -/

/-- The invariant passes to a state that differs in LINE and DEVS alone, if those agree there. -/
theorem inv_of_linesConsistent {s : State} (hs : s.Inv) {lines : Vector (Option DeviceId) 16} {devs : List DeviceId}
    (h : State.LinesConsistent { s with lines := lines, devs := devs }) : State.Inv { s with lines := lines, devs := devs } := by
  obtain ⟨ram, queue, reserved, fault, -⟩ := hs
  exact ⟨ram, queue, reserved, fault, h⟩

theorem hostAttach_inv {d : DeviceId} {s t : State} (hs : s.Inv) (h : hostAttach d s = .done t) : t.Inv := by
  obtain ⟨-, -, -, -, claims, nodup, one⟩ := id hs
  unfold hostAttach at h
  split at h
  · cases h
  next new =>
    cases h
    exact inv_of_linesConsistent hs
      ⟨fun n e hn => List.mem_append_left _ (claims n e hn), by simpa using nodup.concat new, one⟩

/-- The line table after an attach to line `n`, at line `m`. -/
theorem lines_set (s : State) (n : BitVec 4) (d : DeviceId) (m : Fin 16) :
    (s.lines.set n.toFin (some d))[m] = if m = n.toFin then some d else s.lines[m] := by
  simp [Vector.getElem_set, Fin.ext_iff, eq_comm]

/-- The line table after a detach, at line `m`. -/
theorem hostDetach_lines (d : DeviceId) (s : State) (m : Fin 16) :
    (hostDetach d s).lines[m] = if s.lines[m] = some d then none else s.lines[m] := by
  simp [hostDetach]

theorem hostAttachLine_inv {d : DeviceId} {n : BitVec 4} {s t : State} (hs : s.Inv)
    (h : hostAttachLine d n s = .done t) : t.Inv := by
  obtain ⟨-, -, -, -, claims, nodup, one⟩ := id hs
  unfold hostAttachLine at h
  split at h
  · split at h
    · cases h
    next new =>
      cases h
      -- only line `n` has a new claimant
      have old : ∀ (m : Fin 16) (e : DeviceId), (s.lines.set n.toFin (some d))[m] = some e →
          (m = n.toFin ∧ e = d) ∨ s.lines[m] = some e := by
        intro m e hm
        rw [lines_set] at hm
        split at hm
        next g => exact .inl ⟨g, (Option.some.inj hm).symm⟩
        · exact .inr hm
      refine inv_of_linesConsistent hs ⟨fun m e hm => ?_, by simpa using nodup.concat new, fun k m e hk hm => ?_⟩
      · rcases old m e hm with ⟨-, rfl⟩ | g
        · simp
        · exact List.mem_append_left _ (claims m e g)
      · rcases old k e hk with ⟨rfl, rfl⟩ | gk <;> rcases old m e hm with ⟨rfl, eq⟩ | gm
        · rfl
        · exact absurd (claims m _ gm) new
        · exact absurd (claims k _ (eq ▸ gk)) new
        · exact one k m e gk gm
  · cases h

theorem hostDetach_inv (d : DeviceId) {s : State} (hs : s.Inv) : (hostDetach d s).Inv := by
  obtain ⟨-, -, -, -, claims, nodup, one⟩ := id hs
  -- a line still claimed is claimed by another device, as before
  have old : ∀ (m : Fin 16) (e : DeviceId), (hostDetach d s).lines[m] = some e → e ≠ d ∧ s.lines[m] = some e := by
    intro m e hm
    rw [hostDetach_lines] at hm
    split at hm
    · cases hm
    next g => exact ⟨fun eq => g (eq ▸ hm), hm⟩
  refine inv_of_linesConsistent hs
    ⟨fun m e hm => ?_, nodup.filter _, fun k m e hk hm => one k m e (old k e hk).2 (old m e hm).2⟩
  obtain ⟨ne, g⟩ := old m e hm
  simp [claims m e g, ne]

theorem rawWrite_keeps (s : State) (x v : Word) : Keeps s (s.rawWrite x v) := (serveRequest_effect (.rawWrite x v) s).keeps

theorem storeWords_keeps (ws : List Word) (x : Word) (s : State) : Keeps s (storeWords ws x s) := by
  induction ws generalizing x s with
  | nil => exact .refl s
  | cons w ws ih => exact (rawWrite_keeps s x w).trans _ _ _ (ih (x + 1) _)

theorem hostLoad_inv {image : List Word} {s t : State} (hs : s.Inv) (h : hostLoad image s = .done t) : t.Inv := by
  unfold hostLoad at h
  split at h
  · cases h
    exact (storeWords_keeps image 0 s).inv hs
  · cases h

/-- Settles O49: attach and detach keep LINE and DEVS in agreement and touch nothing else; poke, load and halt request are
services a device has as well. -/
theorem hostActionsKeepInv : Obligations.HostActionsKeepInv := by
  intro s hs
  have ⟨_, _, _, _, lines⟩ := hs
  exact ⟨fun _ _ => hostAttach_inv hs, fun _ _ _ => hostAttachLine_inv hs, fun d => hostDetach_inv d hs,
    fun x v => (rawWrite_keeps s x v).inv hs, fun _ _ => hostLoad_inv hs, invAtReset.2 s lines,
    (serveRequest_effect .requestHalt s).keeps.inv hs⟩

end Sys2Proof.Machine
end

section
/-! PROOFS. Devices at the line multiplexer (R54-R58, R145, R282): which device an access calls, in which order, and what a
call does. -/

namespace Sys2Proof.Machine
open Sys2Proof

/-! ## Addresses -/

/-- `line(addr)` is the address divided by 4096 (R54). -/
theorem lineOf_toNat (x : Word) : (lineOf x).toNat = x.toNat / 4096 := by
  simp only [lineOf, BitVec.extractLsb'_toNat, Nat.shiftRight_eq_div_pow]
  omega

/-- `offset(addr)` is the rest (R54). -/
theorem offsetOf_eq (x : Word) : offsetOf x = BitVec.ofNat 12 (x.toNat % 4096) := by
  apply BitVec.eq_of_toNat_eq
  simp only [offsetOf, BitVec.extractLsb'_toNat, BitVec.toNat_ofNat, Nat.shiftRight_eq_div_pow]
  omega

/-- The claimant of an address is its line's (R54, R55). -/
theorem claimant_eq (s : State) {x : Word} {n : Fin 16} (h : n.val = x.toNat / 4096) : s.claimant x = s.lines[n] := by
  have line : (lineOf x).toNat = n.val := (lineOf_toNat x).trans h.symm
  simp only [State.claimant, Fin.getElem_fin, BitVec.val_toFin, line]

/-! ## Calls -/

/-- A read of a claimed line is one call of its device. -/
theorem memRead_calls {s : State} {x : Word} {d : DeviceId} (h : s.claimant x = some d) :
    (memRead x s).state.calls = s.calls ++ [.onRead d (offsetOf x)] := by
  rw [memRead_claimed h, callDevice_calls]

/-- A read of a claimed line that goes on gives the device's answer and leaves the line table. -/
theorem memRead_claimed_ok {s t : State} {x w : Word} {d : DeviceId} (h : s.claimant x = some d) (e : memRead x s = .ok w t) :
    w = (Config.deviceReply (.onRead d (offsetOf x)) s.calls s.ram s.cyc).value ∧ t.lines = s.lines ∧
      t.calls = s.calls ++ [.onRead d (offsetOf x)] := by
  have lines := (memRead_effect x s).lines
  have calls := memRead_calls h
  rw [e] at lines calls
  exact ⟨callDevice_value ((memRead_claimed h).symm.trans e), lines, calls⟩

/-- A write to a claimed line is one call of its device, with the RAM word as the old value (R56). -/
theorem memWrite_calls {s : State} {x : Word} {d : DeviceId} (v : Word) (h : s.claimant x = some d) :
    (memWrite x v s).state.calls = s.calls ++ [.onWrite d (offsetOf x) v (s.rawRead x)] := by
  rw [memWrite_claimed h, ← callDevice_calls]
  cases callDevice (.onWrite d (offsetOf x) v (s.rawRead x)) s <;> rfl

/-- Settles O52: the claimant of the line decides between one device call and RAM. -/
theorem lineIsolation : Obligations.LineIsolation := by
  intro s x v n hn
  rw [← claimant_eq s hn, ← offsetOf_eq x]
  exact ⟨fun d claimed => ⟨memRead_claimed claimed, memWrite_claimed claimed, memRead_calls claimed, memWrite_calls v claimed⟩,
    fun free => ⟨memRead_ram free, s.rawWrite x v, memWrite_ram free, rfl, fun y hy => rawRead_rawWrite_other s v hy⟩⟩

/-- A chain that leaves no fault was not cut short in its first operation (R276). -/
theorem bind_ok_of_unfaulted {α β : Type} {s : State} {r : Res α} {k : α → State → Res β} (told : FaultTold s r)
    (h : (r.bind k).state.fault = none) : ∃ v t, r = .ok v t := by
  cases r with
  | ok v t => exact ⟨v, t, rfl⟩
  | raised t => exact absurd ((told.2 t rfl).symm.trans h) (by simp)

/-- SET between memory operands: b read, a read, b written (R145, R161). -/
theorem exec_set_regInd (r q : Reg) (s : State) :
    exec (.set (.regInd r) (.regInd q)) s = ((memRead (s.reg r) s).bind fun _ u => (memRead (s.reg q) u).bind fun av v =>
      memWrite (s.reg r) av v).outcome := rfl

/-- Settles O53: a read that was cut short would have left its fault, so both went on, and each of the three accesses logs
its call. -/
theorem deviceCallsInOperandOrder : Obligations.DeviceCallsInOperandOrder := by
  intro r q d e s t hd he h unfaulted
  rw [exec_set_regInd, outcome_eq_next] at h
  subst h
  obtain ⟨bv, u, readB⟩ := bind_ok_of_unfaulted (memRead_faultTold (s.reg r) s) unfaulted
  rw [readB, bind_ok] at unfaulted ⊢
  obtain ⟨av, v, readA⟩ := bind_ok_of_unfaulted (memRead_faultTold (s.reg q) u) unfaulted
  obtain ⟨-, lines_u, calls_u⟩ := memRead_claimed_ok hd readB
  obtain ⟨answer, lines_v, calls_v⟩ := memRead_claimed_ok ((claimant_congr lines_u _).trans he) readA
  have claimed : v.claimant (s.reg r) = some d := (claimant_congr (lines_v.trans lines_u) _).trans hd
  refine ⟨bv, av, u, v, rfl, readA, answer, ?_⟩
  rw [readA, bind_ok, memWrite_calls av claimed, calls_v, calls_u]
  simp

/-! ## Services -/

/-- A device's services append to the queue and take nothing off it. -/
theorem serveRequest_intq (q : DeviceRequest) (s : State) : s.intq <+: (serveRequest q s).state.intq := by
  cases q with
  | post m =>
    simp only [serveRequest, post]
    split
    · exact List.prefix_refl _
    · rcases enqueue_cases m s with ⟨_, e⟩ | ⟨_, e⟩ <;> rw [e]
      · exact List.prefix_append _ _
      · exact List.prefix_refl _
  | _ => exact List.prefix_refl _

theorem serveRequests_intq (qs : List DeviceRequest) (s : State) : s.intq <+: (serveRequests qs s).state.intq := by
  induction qs generalizing s with
  | nil => exact List.prefix_refl _
  | cons q qs ih =>
    exact bind_state (P := fun a b => a.intq <+: b.intq) (fun _ _ _ => List.IsPrefix.trans) (serveRequest_intq q s)
      fun _ t _ => ih t

theorem callDevice_intq (c : DeviceCall) (s : State) : s.intq <+: (callDevice c s).state.intq :=
  bind_state (P := fun a b => a.intq <+: b.intq) (fun _ _ _ => List.IsPrefix.trans)
    (serveRequests_intq _ (s.logCall c)) fun _ _ _ => List.prefix_refl _

/-- Settles O59: the services by definition; what a call can do is `DeviceEffect`. -/
theorem deviceServices : Obligations.DeviceServices := by
  refine ⟨fun m x v n q qs s => ⟨rfl, rfl, rfl, rfl, rfl, rfl⟩, fun c s => ?_, fun x d s claimed => memRead_claimed claimed,
    fun s => rfl⟩
  have effect := callDevice_effect c s
  obtain ⟨new, intq⟩ := callDevice_intq c s
  exact ⟨rfl, effect.frame, callDevice_calls c s, effect.cyc_le, effect.halt_mono, new, intq.symm⟩

/-! ## Attach and detach -/

/-- A second detach finds nothing to remove. -/
theorem hostDetach_idem (d : DeviceId) (s : State) : hostDetach d (hostDetach d s) = hostDetach d s := by
  simp [hostDetach, Function.comp_def]

/-- Settles O58: by the definitions of attach and detach; the line table is read one line at a time. -/
theorem attachAndDetach : Obligations.AttachAndDetach := by
  intro d n s
  refine ⟨fun claimed => if_neg claimed, fun free new => ?_, fun new => if_neg new, rfl, rfl, by simp [hostDetach],
    fun e he => by simp [hostDetach, he], hostDetach_lines d s, hostDetach_idem d s⟩
  exact ⟨_, (if_pos free).trans (if_neg new), rfl, lines_set s n d⟩

end Sys2Proof.Machine
end

section
/-! PROOFS. The encoding (30_encoding.md R80-R95): the decoder and the encoder are inverse to each other, and an
instruction's length is read off its opcode word. -/

namespace Sys2Proof
open Sys2Proof.Machine

/-! ## The encoder and the decoder by format -/

theorem encode_of_basic {i : Instr} {o : BitVec 5} {b a : Operand} (e : i.format = .basic o b a) :
    encode i = a.code6 ++ b.code5 ++ o := by
  rw [encode, e]

theorem encode_of_special {i : Instr} {s : BitVec 5} {a : Operand} (e : i.format = .special s a) :
    encode i = a.code6 ++ s ++ 0#5 := by
  rw [encode, e]

theorem wellFormed_of_basic {i : Instr} {o : BitVec 5} {b a : Operand} (e : i.format = .basic o b a) :
    i.wellFormed = true ↔ b.okIn .b = true ∧ a.okIn .a = true := by
  rw [Instr.wellFormed, e, Bool.and_eq_true]

theorem wellFormed_of_special {i : Instr} {s : BitVec 5} {a : Operand} (e : i.format = .special s a) :
    i.wellFormed = true ↔ a.okIn .a = true := by
  rw [Instr.wellFormed, e]

/-- A word whose field o is not 0 is a basic instruction (R81). -/
theorem decode_format_basic {w : Word} (h : opField w ≠ 0) :
    (decode w).format = .basic (opField w) (decodeB (bField w)) (decodeA (aField w)) := by
  obtain ⟨i, named, format⟩ := basicInstr_format _ (decodeB (bField w)) (decodeA (aField w)) h
  rw [decode, named]
  exact format

/-- A word whose field o is 0 is a special instruction (R82). -/
theorem decode_format_special {w : Word} (h : opField w = 0) :
    (decode w).format = .special (bField w) (decodeA (aField w)) := by
  rw [decode, h]
  exact specialInstr_format _ _

/-! ## Both ways round -/

/-- Settles O1: the fields of the encoded word are the opcode and the operand codes, and each reads back as what it was
written for. -/
theorem decodeOfEncode : Obligations.DecodeOfEncode := by
  intro i wf
  cases e : i.format with
  | basic o b a =>
    obtain ⟨okB, okA⟩ := (wellFormed_of_basic e).mp wf
    rw [encode_of_basic e, decode, opField_word, bField_word, aField_word, decodeB_code b okB, decodeA_code a okA,
      basicInstr_of_format e]
  | special s a =>
    have okA := (wellFormed_of_special e).mp wf
    rw [encode_of_special e, decode, opField_word, bField_word, aField_word, decodeA_code a okA]
    exact specialInstr_of_format e

theorem decode_wellFormed (w : Word) : (decode w).wellFormed = true := by
  by_cases h : opField w = 0
  · exact (wellFormed_of_special (decode_format_special h)).mpr (code6_decodeA _).2
  · exact (wellFormed_of_basic (decode_format_basic h)).mpr ⟨(code5_decodeB _).2, (code6_decodeA _).2⟩

theorem encode_decode (w : Word) : encode (decode w) = w := by
  by_cases h : opField w = 0
  · rw [encode_of_special (decode_format_special h), (code6_decodeA _).1]
    calc aField w ++ bField w ++ 0#5 = aField w ++ bField w ++ opField w := by rw [h]; rfl
      _ = w := word_of_fields w
  · rw [encode_of_basic (decode_format_basic h), (code6_decodeA _).1, (code5_decodeB _).1, word_of_fields]

/-- The reserved rows and the refused rows are apart (R90, R91). -/
theorem not_isReserved_and_isRefused (i : Instr) : ¬(i.isReserved = true ∧ i.isRefused = true) := by
  rw [Instr.isReserved, Instr.isRefused]
  rintro ⟨reserved, refused⟩
  cases e : i.format with
  | basic o b a => rw [e] at refused; cases refused
  | special s a =>
    rw [e] at reserved refused
    obtain rfl | rfl | rfl : s = 0x10#5 ∨ s = 0x11#5 ∨ s = 0x12#5 := by simpa using refused
    all_goals cases reserved

theorem trailing_le_two (i : Instr) : i.trailing ≤ 2 := by
  rw [Instr.trailing]
  cases i.format with
  | basic o b a => exact Nat.add_le_add (Bool.toNat_le _) (Bool.toNat_le _)
  | special s a => exact (Bool.toNat_le _).trans one_le_two

/-- An opcode word with the trailing words it takes is one instruction, whatever follows (R80, R86). -/
theorem decodeWords_of_trailing (w : Word) {tr : List Word} (rest : List Word) (h : tr.length = (decode w).trailing) :
    decodeWords (w :: (tr ++ rest)) = .instr (decode w) tr rest := by
  rw [decodeWords, if_neg (by simp [h]), ← h, List.take_left, List.drop_left]

/-- Settles O2: that no other instruction has the encoding is that the decoder undoes the encoder. -/
theorem everyWordIsOneInstruction : Obligations.EveryWordIsOneInstruction := fun w =>
  ⟨decode_wellFormed w, encode_decode w, fun i wf e => by rw [← e, decodeOfEncode i wf],
    not_isReserved_and_isRefused _, trailing_le_two _, fun _ rest h => decodeWords_of_trailing w rest h⟩

/-! ## Fields as numbers -/

theorem opField_toNat (w : Word) : (opField w).toNat = w.toNat % 32 := by
  rw [opField, BitVec.extractLsb'_toNat, Nat.shiftRight_zero]

theorem bField_toNat (w : Word) : (bField w).toNat = w.toNat / 32 % 32 := by
  rw [bField, BitVec.extractLsb'_toNat, Nat.shiftRight_eq_div_pow]

theorem aField_toNat (w : Word) : (aField w).toNat = w.toNat / 1024 := by
  rw [aField, BitVec.extractLsb'_toNat, Nat.shiftRight_eq_div_pow]
  have := w.isLt
  omega

/-- A word's number from its fields (R95). -/
theorem word_toNat (a : BitVec 6) (b o : BitVec 5) :
    (a ++ b ++ o : Word).toNat = a.toNat * 1024 + b.toNat * 32 + o.toNat := by
  have hw := (a ++ b ++ o : Word).isLt
  have ha := aField_toNat (a ++ b ++ o)
  have hb := bField_toNat (a ++ b ++ o)
  have ho := opField_toNat (a ++ b ++ o)
  rw [aField_word] at ha
  rw [bField_word] at hb
  rw [opField_word] at ho
  omega

/-! ## Lengths -/

/-- R85's codes as numbers. -/
theorem needsWord_toNat (c : BitVec 6) : (needsWord c).toNat =
    if (0x10 ≤ c.toNat ∧ c.toNat ≤ 0x17) ∨ c.toNat = 0x1A ∨ c.toNat = 0x1E ∨ c.toNat = 0x1F then 1 else 0 := by
  simp only [needsWord, Bool.toNat, Bool.cond_eq_ite, BitVec.le_def, Bool.or_eq_true, decide_eq_true_eq, beq_iff_eq,
    ← BitVec.toNat_inj, or_assoc, BitVec.toNat_ofNat, Nat.reducePow, Nat.reduceMod]

theorem length_decode (w : Word) : (decode w).length = wordLength w := by
  have law : wordLength (encode (decode w)) = (decode w).length := by
    by_cases h : opField w = 0
    · exact lengthOfWord_special _ _ _ (decode_format_special h) (decode_wellFormed w)
    · exact lengthOfWord_basic _ _ _ _ (decode_format_basic h) h (decode_wellFormed w)
  rw [← law, encode_decode]

/-- Settles O3: the fields and R85's codes as numbers. -/
theorem lengthFromOpcodeWord : Obligations.LengthFromOpcodeWord := by
  refine fun w => ⟨?_, length_decode w⟩
  have zero_iff : opField w = 0 ↔ w.toNat % 32 = 0 := by rw [← opField_toNat, ← BitVec.toNat_inj]; rfl
  have code_b : ((bField w).zeroExtend 6).toNat = w.toNat / 32 % 32 := by
    rw [BitVec.zeroExtend_eq_setWidth, BitVec.toNat_setWidth_of_le (by decide), bField_toNat]
  simp only [wordLength, zero_iff, needsWord_toNat, code_b, aField_toNat]

/-! ## Packed immediates and the worked encodings -/

/-- Settles O5: the decoder's own value, whose sum with 0x21 is the code. -/
theorem packedImmediates : Obligations.PackedImmediates := by
  intro c h
  refine ⟨c.zeroExtend 16 - 0x21#16, if_pos h, ?_, fun s => ⟨rfl, rfl⟩⟩
  have hc := c.isLt
  simp only [BitVec.truncate_eq_setWidth, BitVec.toInt_eq_toNat_cond, BitVec.toNat_sub, BitVec.toNat_setWidth, BitVec.toNat_ofNat]
  omega

/-- Settles O4: the fixed words by evaluation, the two formulas as the number of a word from its fields. -/
theorem writtenWordsDecode : Obligations.WrittenWordsDecode := by
  refine ⟨rfl, rfl, rfl, rfl, rfl, rfl, rfl, rfl, rfl, rfl, rfl, fun o b a i e => ?_, fun s a i e => ?_⟩
  · rw [encode_of_basic e, word_toNat]
  · rw [encode_of_special e, word_toNat]
    exact Nat.add_zero _

end Sys2Proof
end

section
/-! PROOFS. The operand resolver (40_operand_resolver.md): what each class resolves to, what a location reads and writes, and
the decode order of PC, SP and the stack operands. -/

namespace Sys2Proof.Machine
open Sys2Proof

/-! ## Each class and each location -/

/-- Settles O6: the resolver's own cases; none of these classes fetches a word. -/
theorem registerAndStackClasses : Obligations.RegisterAndStackClasses := fun _ _ _ =>
  ⟨rfl, rfl, rfl, rfl, rfl, rfl, rfl, rfl, rfl, rfl, rfl, rfl⟩

/-- Settles O8: the cases of `readLoc` and `writeLoc`; a written register reads back and the others are kept. -/
theorem readsAndWritesOfLocations : Obligations.ReadsAndWritesOfLocations := by
  intro s r x v
  have same : (s.setReg r v).reg r = v := by rw [setReg_reg, if_pos rfl]
  have other : ∀ q, q ≠ r → (s.setReg r v).reg q = s.reg q := fun q hq => by rw [setReg_reg, if_neg hq]
  exact ⟨rfl, rfl, rfl, rfl, rfl, rfl, ⟨s.setReg r v, rfl, rfl, same, other⟩, rfl, rfl, rfl, rfl, rfl⟩

/-! ## Trailing words -/

/-- After a read, what goes on may be replaced by what agrees with it in every state a device can leave. -/
theorem memRead_bind_congr {α : Type} {x : Word} {s : State} {k l : Word → State → Res α}
    (agree : ∀ w t, DeviceEffect s t → k w t = l w t) : (memRead x s).bind k = (memRead x s).bind l := by
  have effect := memRead_effect x s
  cases e : memRead x s with
  | ok w t => exact agree w t (by rwa [e] at effect)
  | raised t => rfl

/-- Fetch moves PC one past where it stood, whatever the device of PC's line does (R124). -/
theorem fetch_eq (s : State) : fetch s = (memRead s.pc s).bind fun w t => .ok w { t with pc := s.pc + 1 } :=
  memRead_bind_congr fun w t e => by rw [e.pc]; rfl

/-- A location that the fetched word, the registers and SP determine is the one they determine before the fetch. -/
theorem fetch_bind_loc {s : State} {loc : Word → State → Loc}
    (determined : ∀ w t, t.regs = s.regs → t.sp = s.sp → loc w t = loc w s) :
    (fetch s).bind (fun w t => .ok (loc w t) t) =
      (memRead s.pc s).bind fun w t => .ok (loc w s) { t with pc := s.pc + 1 } := by
  calc (fetch s).bind (fun w t => .ok (loc w t) t)
      = (memRead s.pc s).bind fun w t => .ok (loc w (t.setPc (s.pc + 1))) (t.setPc (s.pc + 1)) := by
        rw [fetch_eq]; cases memRead s.pc s <;> rfl
    _ = _ := memRead_bind_congr fun w t e => by rw [determined w (t.setPc (s.pc + 1)) e.regs e.sp]; rfl

/-- Settles O7: a device leaves the registers, PC and SP, so the fetch changes no summand of an address. -/
theorem wordTakingClasses : Obligations.WordTakingClasses := by
  intro s r
  simp only [← BitVec.add_def]
  exact ⟨fetch_eq s,
    fetch_bind_loc (loc := fun w t => .mem (t.reg r + w)) fun w t regs _ => by rw [State.reg, regs]; rfl,
    fetch_bind_loc (loc := fun w t => .mem (t.sp + w)) fun w t _ sp => by rw [sp],
    fetch_bind_loc (loc := fun w _ => .mem w) fun _ _ _ _ => rfl,
    fetch_bind_loc (loc := fun w _ => .lit w) fun _ _ _ _ => rfl⟩

/-! ## SET and ADD where no line is claimed -/

/-- SET: a's value is written to b (R161). -/
theorem exec_set_unclaimed {s : State} (h : s.Unclaimed) (b a : Operand) :
    exec (.set b a) s = .next ((s.basicOperands b a).store (s.basicOperands b a).av) := produce_unclaimed h b a _

/-- ADD: the wrapped sum is written to b, then EX (R162). -/
theorem exec_add_unclaimed {s : State} (h : s.Unclaimed) (b a : Operand) :
    exec (.add b a) s = .next (((s.basicOperands b a).store ((s.basicOperands b a).bv + (s.basicOperands b a).av)).setEx
      (addValue (s.basicOperands b a).bv (s.basicOperands b a).av).2) := by
  rw [← u16_add]
  exact produceEx_unclaimed h b a fun bv av _ => addValue bv av

/-! ## PC and SP as operands -/

/-- Resolving leaves the shadows of PC and SP (R24). -/
theorem plainResolve_shadows (o : Operand) (s : State) :
    (plainResolve o s).2.pc0 = s.pc0 ∧ (plainResolve o s).2.sp0 = s.sp0 := by
  cases o <;> exact ⟨rfl, rfl⟩

/-- Settles O9: the values are the shadows, which resolving the other operand leaves; the write comes after the decode. -/
theorem pcAndSpOperandsInOneInstruction : Obligations.PcAndSpOperandsInOneInstruction := by
  intro o s h
  obtain ⟨pc0, sp0⟩ := plainResolve_shadows o s
  exact ⟨pc0, sp0, pc0, sp0, exec_set_unclaimed h .pc o, exec_set_unclaimed h .sp o⟩

/-! ## Two stack operands -/

section Push
variable {s : State} (a : Operand) (v : Word)

/-- With PUSH as b the result is stored in the slot below SP, whatever a does to SP (R114, R127). -/
theorem store_push : (s.basicOperands .push a).store v = (s.basicOperands .push a).after.rawWrite (s.sp - 1) v := rfl

theorem store_push_other {x : Word} (hx : x ≠ s.sp - 1) :
    ((s.basicOperands .push a).store v).rawRead x = s.rawRead x := by
  rw [store_push, rawRead_rawWrite_other _ v hx, rawRead_congr (basicOperands_ram s .push a)]

variable (canonical : Memory.wf s.ram = true)
include canonical

theorem store_push_same : ((s.basicOperands .push a).store v).rawRead (s.sp - 1) = v := by
  rw [store_push, rawRead_rawWrite_same _ _ (by rwa [basicOperands_ram])]

/-- Storing what the slot holds changes no word. -/
theorem store_push_own (own : v = s.rawRead (s.sp - 1)) (x : Word) :
    ((s.basicOperands .push a).store v).rawRead x = s.rawRead x := by
  by_cases hx : x = s.sp - 1
  · rw [hx, store_push_same a v canonical, own]
  · exact store_push_other a v hx

end Push

/-- PUSH as b reads the slot below SP. -/
theorem bv_push (s : State) (a : Operand) : (s.basicOperands .push a).bv = s.rawRead (s.sp - 1) :=
  rawRead_congr (basicOperands_ram s .push a) _

/-- Settles O10: b's PUSH is decoded first, so a POP or PEEK reads the very slot that the result goes to. -/
theorem stackOperandsInOrder : Obligations.StackOperandsInOrder := by
  intro s h canonical
  have restored : s.sp - 1 + 1 = s.sp := BitVec.sub_add_cancel s.sp 1
  have pop : (s.basicOperands .push .pop).av = s.rawRead (s.sp - 1) := rfl
  have peek : (s.basicOperands .push .peek).av = s.rawRead (s.sp - 1) := rfl
  refine ⟨⟨_, exec_add_unclaimed h .push .pop, restored, ?_, fun _ => store_push_other .pop _⟩,
    ⟨_, exec_set_unclaimed h .push .peek, rfl, store_push_own .peek _ canonical peek⟩,
    ⟨_, exec_set_unclaimed h .push .pop, restored, store_push_own .pop _ canonical pop⟩,
    ⟨_, exec_set_unclaimed h .push .sp, rfl, store_push_same .sp _ canonical, fun _ => store_push_other .sp _⟩⟩
  rw [bv_push, pop]
  exact store_push_same .pop _ canonical

end Sys2Proof.Machine
end

section
/-! PROOFS. The execution cycle (41_execution_cycle.md R140-R154): the choice of a step, the skip step, the instruction step,
the general registers an instruction can change, and PC after it. -/

namespace Sys2Proof.Machine
open Sys2Proof

/-! ## General registers -/

/-- A general register is changed by nothing but what `WritesReg` names (R146). -/
theorem exec_reg {i : Instr} {s t : State} {r : Reg} (e : exec i s = .next t) (h : ¬ WritesReg i r) : t.reg r = s.reg r :=
  FrameOf.exec (f := (·.reg r))
    { toAccessFrame := .of_device fun d => d.reg r
      reg q w u v := by
        have other : r ≠ q := fun same => h (same ▸ w)
        rw [setReg_reg, if_neg other] } e rfl

/-- Settles O33: what the statement excludes is all that `WritesReg` names. -/
theorem frameOfGeneralRegisters : Obligations.FrameOfGeneralRegisters := by
  intro i s t r e destination rfi bumped
  refine exec_reg e ?_
  rintro (d | ⟨⟨b, a, ij⟩, r_ij⟩ | ⟨⟨a, ret⟩, r_a⟩)
  · exact destination d
  · exact not_or.mpr (bumped b a ij) r_ij
  · exact rfi a ret r_a

/-! ## The choice of a step, and the skip step -/

theorem dispatchEligible_iff {s : State} : s.dispatchEligible = true ↔ s.intq ≠ [] ∧ s.ia ≠ 0 ∧ s.susp = false := by
  simp [State.dispatchEligible, State.deliveryEnabled]

/-- What follows a meaning that answers `t`: nothing if `t` carries a mark, else CYC and the ticks (R147, R148). -/
theorem finishStep_next (w : Word) (t : State) :
    finishStep w (.next t) = if t.marked = true then .next t else (tickAll w t.devs { t with cyc := t.cyc + 1 }).outcome := rfl

/-- An instruction step always answers a next state, fault or refusal marked in it (R276, R277). -/
theorem execStep_next (s : State) : ∃ t, execStep s = .next t := by
  rw [execStep]
  cases fetch s.captureShadows with
  | raised t => exact ⟨t, rfl⟩
  | ok w u =>
    obtain ⟨v, e⟩ := exec_next (decode w) u
    simp only [e, finishStep_next]
    split <;> exact ⟨_, rfl⟩

/-- A core that is not stopped takes a step (R140). -/
theorem step_next {s : State} (run : s.stopped = false) : ∃ t, step s = .next t := by
  rw [step_running run, runningStep]
  split
  next => exact ⟨_, rfl⟩
  next =>
    split
    · exact ⟨_, rfl⟩
    · exact execStep_next s

/-- Settles O40: a step is a running core's, and each of its three kinds answers a next state. -/
theorem stoppedCoreTakesNoStep : Obligations.StoppedCoreTakesNoStep := by
  intro s
  rw [← stopped_eq_false]
  refine ⟨⟨fun ⟨_, h⟩ => (step_cases h).1, step_next⟩, fun halt fault refused => ?_⟩
  have run : s.stopped = false := stopped_eq_false.mpr ⟨halt, fault, refused⟩
  refine ⟨step_skip run, fun k queued handler unsuspended => ?_, fun k ineligible => step_exec ⟨run, k, ?_⟩⟩
  · exact step_dispatch run k (dispatchEligible_iff.mpr ⟨queued, handler, unsuspended⟩)
  · rw [← Bool.not_eq_true, dispatchEligible_iff]
    rintro ⟨queued, handler, unsuspended⟩
    rcases ineligible with empty | none | suspended
    · exact queued empty
    · exact handler none
    · simp [unsuspended] at suspended

/-- Settles O42: the closed form where no line is claimed; on every machine the read of the opcode word leaves PC. -/
theorem skipStepOnlyMovesPc : Obligations.SkipStepOnlyMovesPc := by
  intro s run k
  rw [step_skip run k]
  refine ⟨fun h => by rw [skipStep_unclaimed h]; rfl, congrArg Res.outcome ?_⟩
  exact memRead_bind_congr fun w t e => by rw [e.pc]; rfl

/-! ## The instruction step -/

/-- The opcode fetch of a word in an unclaimed line: RAM's, and PC is one higher (R124). -/
theorem fetch_ram {s : State} (h : s.claimant s.pc = none) : fetch s = .ok (s.rawRead s.pc) (s.setPc (s.pc + 1)) := by
  rw [fetch, memRead_ram h, bind_ok]

theorem marked_iff {t : State} : t.marked = true ↔ t.fault.isSome = true ∨ t.refused.isSome = true := by
  rw [State.marked, Bool.or_eq_true]

theorem marked_eq_false {t : State} : t.marked = false ↔ t.fault = none ∧ t.refused = none := by
  rw [← Bool.not_eq_true, marked_iff]
  simp

/-- A step whose opcode fetch goes on runs the decoded instruction (R142, R144). -/
theorem step_of_fetch {s u t : State} {w : Word} (x : s.Executes) (f : fetch s.captureShadows = .ok w u)
    (e : exec (decode w) u = .next t) :
    step s = if t.marked = true then .next t else (tickAll w t.devs { t with cyc := t.cyc + 1 }).outcome := by
  rw [step_exec x, execStep, f, ← finishStep_next, ← e]

/-- Settles O41: the cases of the opcode fetch; the word of an encoded instruction decodes to it. -/
theorem stepRunsTheDecodedInstruction : Obligations.StepRunsTheDecodedInstruction := by
  refine fun s x => ⟨?_, fun i wf => ?_⟩
  · cases f : fetch s.captureShadows with
    | raised u => exact .inl ⟨u, f, by rw [step_exec x, execStep, f]⟩
    | ok w u =>
      obtain ⟨t, e⟩ := exec_next (decode w) u
      exact .inr ⟨w, u, t, f, e, step_of_fetch x f e⟩
  have decoded : decode (encode i) = i := decodeOfEncode i wf
  have runs : ∀ {u t}, fetch s.captureShadows = .ok (encode i) u → exec i u = .next t →
      step s = if t.marked = true then .next t else (tickAll (encode i) t.devs { t with cyc := t.cyc + 1 }).outcome :=
    fun f e => step_of_fetch x f (decoded.symm ▸ e)
  refine ⟨fun u f t e => ⟨fun m => ?_, fun noFault noRefusal => ?_⟩, fun h word => ?_⟩
  · rw [runs f e, if_pos (marked_iff.mpr m)]
  · rw [runs f e, marked_eq_false.mpr ⟨noFault, noRefusal⟩, if_neg Bool.false_ne_true]
  · have f : fetch s.captureShadows = .ok (encode i) (s.captureShadows.setPc (s.pc + 1)) :=
      word ▸ fetch_unclaimed (s := s.captureShadows) h
    refine ⟨f, fun t e unmarked noDevs => ?_⟩
    rw [runs f e, unmarked, if_neg Bool.false_ne_true, noDevs]
    rfl

/-! ## PC after an instruction -/

/-- An operation that ends without a mark has moved PC by `n` words. -/
def MovesPcBy (n : Nat) (s t : State) : Prop := t.marked = false → t.pc = s.pc + BitVec.ofNat 16 n

theorem movesPcBy_of_fault {n : Nat} {s t : State} {r : FaultReason} (h : t.fault = some r) : MovesPcBy n s t := by
  intro m
  simp [State.marked, h] at m

/-- A write to a location that is not PC's leaves PC. -/
theorem writeLoc_pc {o : Operand} {l : Loc} (ho : o ≠ .pc) (hl : LocOf o l) (v : Word) (s : State) :
    (writeLoc l v s).state.pc = s.pc := by
  obtain ⟨_, _, e⟩ := hl
  cases l with
  | pc => exact absurd (resolve_loc e) ho
  | mem a => exact (memWrite_effect a v s).pc
  | _ => rfl

/-- A chain leaves PC if each link does. -/
theorem bind_pc {α β : Type} {s : State} {r : Res α} {k : α → State → Res β} (h1 : r.state.pc = s.pc)
    (h2 : ∀ v t, (k v t).state.pc = t.pc) : (r.bind k).state.pc = s.pc :=
  bind_state (P := fun s t => t.pc = s.pc) (fun _ _ _ x y => y.trans x) h1 fun v t _ => h2 v t

section Meanings
variable {s t : State} {b a : Operand}

/-- Two operands resolved in turn have moved PC past the trailing words of both (R86). -/
theorem resolve_resolve_pc {s1 s2 : State} {bl al : Loc} (hb : resolve b s = .ok bl s1) (ha : resolve a s1 = .ok al s2) :
    s2.pc = s.pc + BitVec.ofNat 16 (b.takesWord.toNat + a.takesWord.toNat) := by
  rw [resolve_pc ha, resolve_pc hb, BitVec.ofNat_add, BitVec.add_assoc]

/-- A basic instruction whose effect leaves PC moves it past both operands' trailing words. -/
theorem withBasic_pc {k : Loc → Word → Word → State → Res Unit}
    (hk : ∀ bl bv av u, LocOf b bl → (k bl bv av u).state.pc = u.pc) :
    MovesPcBy (b.takesWord.toNat + a.takesWord.toNat) s (withBasic b a s k).state := by
  rcases withBasic_cases b a s k with ⟨u, r, -, fault, -⟩ | ⟨bl, bv, av, u, s1, s2, al, r, -, -, hb, ha, pc, -⟩ <;> rw [r]
  · exact movesPcBy_of_fault fault
  · exact fun _ => (hk bl bv av u ⟨s, s1, hb⟩).trans (pc.trans (resolve_resolve_pc hb ha))

/-- A special instruction whose effect leaves PC moves it past the operand's trailing word. -/
theorem special_pc {k : Loc → Word → State → Res Unit} (e : (withSpecial a s k).outcome = .next t)
    (hk : ∀ al av u, LocOf a al → (k al av u).state.pc = u.pc) : MovesPcBy a.takesWord.toNat s t := by
  rw [← outcome_eq_next.mp e]
  rcases withSpecial_cases a s k with ⟨u, r, -, fault, -⟩ | ⟨al, av, u, s1, r, -, -, ha, pc, -⟩ <;> rw [r]
  · exact movesPcBy_of_fault fault
  · exact fun _ => (hk al av u ⟨s, s1, ha⟩).trans (pc.trans (resolve_pc ha))

theorem produce_pc {f : Word → Word → Word} (hb : b ≠ .pc) (e : produce b a s f = .next t) :
    MovesPcBy (b.takesWord.toNat + a.takesWord.toNat) s t := by
  rw [← outcome_eq_next.mp e]
  exact withBasic_pc fun _ _ _ u hl => writeLoc_pc hb hl _ u

theorem produceEx_pc {f : Word → Word → Word → Word × Word} (hb : b ≠ .pc) (e : produceEx b a s f = .next t) :
    MovesPcBy (b.takesWord.toNat + a.takesWord.toNat) s t := by
  rw [← outcome_eq_next.mp e]
  exact withBasic_pc fun _ _ _ u hl => bind_pc (writeLoc_pc hb hl _ u) fun _ _ => rfl

theorem setAndBump_pc {d : Word} (hb : b ≠ .pc) (e : setAndBump b a s d = .next t) :
    MovesPcBy (b.takesWord.toNat + a.takesWord.toNat) s t := by
  rw [← outcome_eq_next.mp e]
  exact withBasic_pc fun _ _ _ u hl => bind_pc (writeLoc_pc hb hl _ u) fun _ _ => rfl

theorem conditional_pc {c : Word → Word → Bool} (e : conditional b a s c = .next t) :
    MovesPcBy (b.takesWord.toNat + a.takesWord.toNat) s t := by
  rw [← outcome_eq_next.mp e]
  refine withBasic_pc fun _ bv av u _ => ?_
  rw [state_ok]
  split <;> rfl

theorem reservedSpecial_pc (e : reservedSpecial a s = .next t) : MovesPcBy a.takesWord.toNat s t := by
  rw [← outcome_eq_next.mp e]
  cases ha : resolve a s with
  | raised u => exact movesPcBy_of_fault ((resolve_faultTold a s).2 u ha)
  | ok al u => exact fun _ => show u.pc = _ from resolve_pc ha

theorem reservedBasic_pc (e : reservedBasic b a s = .next t) :
    MovesPcBy (b.takesWord.toNat + a.takesWord.toNat) s t := by
  rw [← outcome_eq_next.mp e]
  cases hb : resolve b s with
  | raised u => exact movesPcBy_of_fault ((resolve_faultTold b s).2 u hb)
  | ok bl s1 =>
    rw [bind_ok]
    cases ha : resolve a s1 with
    | raised u => exact movesPcBy_of_fault ((resolve_faultTold a s1).2 u ha)
    | ok al u => exact fun _ => show u.pc = _ from resolve_resolve_pc hb ha

end Meanings

/-- Arm by arm: an instruction that does not write PC moves it past its trailing words (R152). -/
theorem exec_pc {i : Instr} {s t : State} (e : exec i s = .next t) (hd : i.destination ≠ some .pc)
    (hj : i.isJsrOrRfi = false) : MovesPcBy i.trailing s t := by
  have ne : ∀ {o}, i.destination = some o → o ≠ .pc := fun h p => hd (h.trans (congrArg some p))
  cases i with
  | set b a | mod b a | mdi b a | and b a | bor b a | xor b a => exact produce_pc (b := b) (a := a) (ne rfl) e
  | add b a => exact produceEx_pc (ne rfl) (show execAdd b a s = _ from e)
  | sub b a => exact produceEx_pc (ne rfl) (show execSub b a s = _ from e)
  | mul b a => exact produceEx_pc (ne rfl) (show execMul b a s = _ from e)
  | mli b a => exact produceEx_pc (ne rfl) (show execMli b a s = _ from e)
  | div b a => exact produceEx_pc (ne rfl) (show execDiv b a s = _ from e)
  | dvi b a => exact produceEx_pc (ne rfl) (show execDvi b a s = _ from e)
  | shr b a => exact produceEx_pc (ne rfl) (show execShr b a s = _ from e)
  | asr b a => exact produceEx_pc (ne rfl) (show execAsr b a s = _ from e)
  | shl b a => exact produceEx_pc (ne rfl) (show execShl b a s = _ from e)
  | adx b a => exact produceEx_pc (ne rfl) (show execAdx b a s = _ from e)
  | sbx b a => exact produceEx_pc (ne rfl) (show execSbx b a s = _ from e)
  | sti b a | std b a => exact setAndBump_pc (b := b) (a := a) (ne rfl) e
  | ifb b a | ifc b a | ife b a | ifn b a | ifg b a | ifa b a | ifl b a | ifu b a =>
    exact conditional_pc (b := b) (a := a) e
  | reservedBasic18 b a | reservedBasic19 b a | reservedBasic1C b a | reservedBasic1D b a =>
    exact reservedBasic_pc (b := b) (a := a) e
  | jsr a | rfi a => cases hj
  | iag a => exact special_pc e fun _ _ u hl => writeLoc_pc (ne rfl) hl _ u
  | hcf a | ias a | iaq a => exact special_pc e fun _ _ _ _ => rfl
  | int a => exact special_pc e fun _ av u _ => by rw [post_frame]
  | hwn a | hwq a | hwi a => cases e; exact fun m => (by simp [State.marked] at m)
  | _ a => exact reservedSpecial_pc (a := a) e

/-- An instruction step that ends without a mark and does not write PC leaves it past the whole instruction, and PC0 where
the instruction stood. -/
theorem execStep_pc {s t : State} (free : s.claimant s.pc = none) (h : execStep s = .next t) (unmarked : t.marked = false)
    (hd : (decode (s.rawRead s.pc)).destination ≠ some .pc) (hj : (decode (s.rawRead s.pc)).isJsrOrRfi = false) :
    t.pc0 = s.pc ∧ t.pc = s.pc + BitVec.ofNat 16 (wordLength (s.rawRead s.pc)) := by
  have fetched : fetch s.captureShadows = .ok (s.rawRead s.pc) (s.captureShadows.setPc (s.pc + 1)) :=
    fetch_ram (s := s.captureShadows) free
  rcases execStep_cases h with f | ⟨w, u, v, f, e, ends⟩ <;> cases fetched.symm.trans f
  have pc0 : v.pc0 = s.pc := congrArg (·.1) (exec_config e)
  rcases ends with ⟨marked, rfl⟩ | ⟨vm, rfl⟩
  · simp [marked] at unmarked
  · have ticked := tickAll_effect (s.rawRead s.pc) v.devs (v.addCyc 1)
    refine ⟨ticked.pc0.trans pc0, ticked.pc.trans ?_⟩
    calc v.pc = s.pc + 1 + BitVec.ofNat 16 (decode (s.rawRead s.pc)).trailing := exec_pc e hd hj vm
      _ = s.pc + BitVec.ofNat 16 (1 + (decode (s.rawRead s.pc)).trailing) := by rw [BitVec.ofNat_add, BitVec.add_assoc]; rfl
      _ = s.pc + BitVec.ofNat 16 (wordLength (s.rawRead s.pc)) := by rw [← length_decode, Instr.length]

section Writes
variable {s t : State} (h : s.Unclaimed)
include h

/-- SET to PC leaves the value of a there (R161, R126). -/
theorem set_pc {a : Operand} (e : exec (.set .pc a) s = .next t) : t.pc = (s.basicOperands .pc a).av := by
  cases (exec_set_unclaimed h .pc a).symm.trans e
  rfl

/-- IAG to PC leaves IA there (R223). -/
theorem iag_pc (e : execIag .pc s = .next t) : t.pc = s.ia := by
  rw [execIag, withSpecial_unclaimed h] at e
  cases e
  rfl

/-- JSR enters at the value of its operand (R220). -/
theorem jsr_pc {a : Operand} (e : execJsr a s = .next t) : t.pc = (s.specialOperand a).av := by
  rw [execJsr, withSpecial_unclaimed h, pushWord_unclaimed ((specialOperand_lines s a).trans h)] at e
  cases e
  rfl

/-- RFI returns to the second word it pops (R225). -/
theorem rfi_pc {a : Operand} (e : execRfi a s = .next t) :
    t.pc = (s.specialOperand a).after.rawRead ((s.specialOperand a).after.sp + 1) := by
  rw [execRfi, withSpecial_unclaimed h, returnFromInterrupt_unclaimed ((specialOperand_lines s a).trans h)] at e
  cases e
  rfl

end Writes

/-- The opcode of SET is SET's alone (R88). -/
theorem eq_set_of_format {i : Instr} {b a : Operand} (e : i.format = .basic 0x01 b a) : i = .set b a :=
  (Option.some.inj (basicInstr_of_format e)).symm

/-- Settles O39: the fetch moves PC by one word, the resolved operands by the trailing words, and nothing else writes it but
its own writers, last of all. -/
theorem pcAfterAnInstruction : Obligations.PcAfterAnInstruction := by
  refine ⟨fun s t x free h unmarked hd hj => ?_, fun i a s t h e => ⟨fun b hd format => ?_, ?_, ?_, ?_⟩⟩
  · obtain ⟨pc0, pc⟩ := execStep_pc free (step_exec x ▸ h) unmarked hd hj
    refine ⟨pc0, ?_⟩
    rw [pc, pc0, BitVec.ofNat_add, BitVec.ofNat_toNat, BitVec.setWidth_eq]
  · obtain rfl := eq_set_of_format format
    obtain rfl : b = .pc := Option.some.inj hd
    exact set_pc h e
  · rintro rfl
    exact iag_pc h e
  · rintro rfl
    exact jsr_pc h e
  · rintro rfl
    exact rfi_pc h e

end Sys2Proof.Machine
end

section
/-! PROOFS. The value functions of the arithmetic instructions as bit-vector arithmetic (42_arithmetic.md R162-R181): each
result and EX value, the corner cases of the shifts, and R181's table. -/

namespace Sys2Proof.Machine
open Sys2Proof

/-! ## Sums and differences -/

/-- Narrowing commutes with addition. -/
theorem u16_add_hom (m n : Int) : u16 (m + n) = u16 m + u16 n := BitVec.ofInt_add m n

/-- The carry of an exact sum of unsigned values. -/
theorem carryEx_natCast (n : Nat) : carryEx n = if 0x10000 ≤ n then 1 else 0 :=
  if_congr (by omega) rfl rfl

theorem addValue_eq (bv av : Word) :
    addValue bv av = (bv + av, if 0x10000 ≤ bv.toNat + av.toNat then 1 else 0) := by
  have carry := carryEx_natCast (bv.toNat + av.toNat)
  rw [Nat.cast_add] at carry
  exact Prod.ext (u16_add bv av) carry

theorem subValue_eq (bv av : Word) : subValue bv av = (bv - av, if bv.toNat < av.toNat then 1 else 0) :=
  Prod.ext (u16_sub bv av) (if_congr (by simp only [nat]; omega) rfl rfl)

theorem adxValue_eq (bv av ex : Word) :
    adxValue bv av ex = (bv + av + ex, if 0x10000 ≤ bv.toNat + av.toNat + ex.toNat then 1 else 0) := by
  have carry := carryEx_natCast (bv.toNat + av.toNat + ex.toNat)
  rw [Nat.cast_add, Nat.cast_add] at carry
  refine Prod.ext ?_ carry
  show u16 (nat bv + nat av + nat ex) = _
  rw [u16_add_hom, u16_add, u16_nat]

theorem sbxValue_eq (bv av ex : Word) :
    sbxValue bv av ex = (bv - av + ex, if bv.toNat + ex.toNat < av.toNat then 0xFFFF
      else if 0x10000 + av.toNat ≤ bv.toNat + ex.toNat then 1 else 0) := by
  refine Prod.ext ?_ (if_congr ?_ rfl (if_congr ?_ rfl rfl))
  · show u16 (nat bv - nat av + nat ex) = _
    rw [u16_add_hom, u16_sub, u16_nat]
  · simp only [nat]; omega
  · simp only [nat]; omega

/-! ## Products: a 32-bit number's two halves -/

/-- The low word of a number's 32-bit two's complement. -/
theorem extractLsb'_low_ofInt (t : Int) : (BitVec.ofInt 32 t).extractLsb' 0 16 = u16 t := by
  apply BitVec.eq_of_toNat_eq
  have := u16_toNat t
  simp only [BitVec.extractLsb'_toNat, BitVec.toNat_ofInt, Nat.shiftRight_eq_div_pow]
  omega

/-- Its high word is the number divided by 65536, toward minus infinity. -/
theorem extractLsb'_high_ofInt (t : Int) : (BitVec.ofInt 32 t).extractLsb' 16 16 = u16 (t / 65536) := by
  apply BitVec.eq_of_toNat_eq
  have := u16_toNat (t / 65536)
  simp only [BitVec.extractLsb'_toNat, BitVec.toNat_ofInt, Nat.shiftRight_eq_div_pow]
  omega

theorem zeroExtend_mul (bv av : Word) :
    bv.zeroExtend 32 * av.zeroExtend 32 = BitVec.ofInt 32 (nat bv * nat av) := by
  rw [nat, nat, BitVec.ofInt_mul, BitVec.ofInt_natCast, BitVec.ofInt_natCast, BitVec.ofNat_toNat, BitVec.ofNat_toNat]

theorem signExtend_mul (bv av : Word) :
    bv.signExtend 32 * av.signExtend 32 = BitVec.ofInt 32 (s16 bv * s16 av) := by
  rw [BitVec.ofInt_mul, s16_eq_toInt, s16_eq_toInt]
  rfl

theorem mulValue_eq (bv av : Word) :
    mulValue bv av = ((bv.zeroExtend 32 * av.zeroExtend 32).extractLsb' 0 16,
      (bv.zeroExtend 32 * av.zeroExtend 32).extractLsb' 16 16) := by
  rw [zeroExtend_mul, extractLsb'_low_ofInt, extractLsb'_high_ofInt, mulValue]

theorem mliValue_eq (bv av : Word) :
    mliValue bv av = ((bv.signExtend 32 * av.signExtend 32).extractLsb' 0 16,
      (bv.signExtend 32 * av.signExtend 32).extractLsb' 16 16) := by
  rw [signExtend_mul, extractLsb'_low_ofInt, extractLsb'_high_ofInt, mliValue]

/-! ## Quotients and remainders -/

theorem divValue_eq (bv av : Word) :
    divValue bv av = (if av = 0 then 0 else bv / av,
      if av = 0 then 0 else BitVec.ofNat 16 (bv.toNat * 65536 / av.toNat)) := by
  by_cases h : av = 0
  · simp [divValue, h]
  · simp only [divValue, h, if_false, BitVec.udiv_def]
    rfl

/-- The signed quotient, rounded toward zero; -32768 by -1 wraps (R181). -/
theorem u16_tdiv (v w : Word) : u16 (v.toInt.tdiv w.toInt) = v.sdiv w := by
  apply BitVec.eq_of_toInt_eq
  rw [u16, BitVec.toInt_ofInt, BitVec.toInt_sdiv]

theorem dviValue_eq (bv av : Word) :
    dviValue bv av = (if av = 0 then 0 else bv.sdiv av,
      if av = 0 then 0 else BitVec.ofInt 16 ((bv.toInt * 65536).tdiv av.toInt)) := by
  by_cases h : av = 0
  · simp [dviValue, h]
  · simp only [dviValue, h, if_false, s16_eq_toInt, u16_tdiv]
    rfl

theorem modValue_eq (bv av : Word) : modValue bv av = if av = 0 then 0 else bv % av := by
  rw [modValue, BitVec.umod_def]
  rfl

/-- What the signed quotient leaves of the dividend is the remainder with the dividend's sign. -/
theorem mdiValue_eq (bv av : Word) : mdiValue bv av = if av = 0 then 0 else bv.srem av := by
  rw [mdiValue, s16_eq_toInt, s16_eq_toInt, ← Int.tmod_def, ← BitVec.toInt_srem, u16_toInt]

/-! ## Shifts -/

theorem pow2_eq (n : Word) : pow2 n = 2 ^ n.toNat := Nat.cast_pow 2 n.toNat

theorem u16_ushiftRight (v : Word) (m : Nat) : u16 (nat v / 2 ^ m) = v >>> m := by
  rw [show nat v / 2 ^ m = ((v >>> m).toNat : Int) by simp [nat, Nat.shiftRight_eq_div_pow]]
  exact u16_nat _

theorem u16_sshiftRight (v : Word) (m : Nat) : u16 (s16 v / 2 ^ m) = v.sshiftRight m := by
  rw [BitVec.sshiftRight_eq, Int.shiftRight_eq_div_pow, s16_eq_toInt]
  norm_cast

theorem u16_shiftLeft (v : Word) (m : Nat) : u16 (nat v * 2 ^ m) = v <<< m := by
  apply BitVec.eq_of_toNat_eq
  rw [show nat v * 2 ^ m = ((v.toNat <<< m : Nat) : Int) by simp [nat, Nat.shiftLeft_eq], u16_natCast,
    BitVec.toNat_ofNat, BitVec.toNat_shiftLeft]

theorem shrValue_eq (bv av : Word) :
    shrValue bv av = (bv >>> av.toNat, BitVec.ofNat 16 (bv.toNat * 65536 / 2 ^ av.toNat)) := by
  rw [shrValue, pow2_eq, u16_ushiftRight, ← u16_natCast]
  norm_cast

theorem asrValue_eq (bv av : Word) :
    asrValue bv av = (bv.sshiftRight av.toNat, BitVec.ofInt 16 (Int.fdiv (bv.toInt * 65536) (2 ^ av.toNat))) := by
  rw [asrValue, pow2_eq, u16_sshiftRight, s16_eq_toInt, Int.fdiv_eq_ediv_of_nonneg _ (by positivity)]
  rfl

theorem shlValue_eq (bv av : Word) :
    shlValue bv av = (bv <<< av.toNat, BitVec.ofNat 16 (bv.toNat * 2 ^ av.toNat / 65536)) := by
  rw [shlValue, pow2_eq, u16_shiftLeft, ← u16_natCast]
  norm_cast

/-! ## Shift counts in the corners: from 16 on, EX is the value shifted on by the rest of the count -/

section FromSixteen
variable {n : Word} (h : 16 ≤ n.toNat)
include h

theorem pow2_of_sixteen_le : pow2 n = 2 ^ (n.toNat - 16) * 65536 := by
  rw [pow2_eq, ← pow_sub_mul_pow 2 h]
  rfl

/-- A fraction word of 16 bits is the value divided by what the count is over 16. -/
theorem mul_ediv_pow2 (m : Int) : m * 65536 / pow2 n = m / 2 ^ (n.toNat - 16) := by
  rw [pow2_of_sixteen_le h, Int.mul_ediv_mul_of_pos_left _ _ (by norm_num)]

theorem shrValue_of_sixteen_le (v : Word) : shrValue v n = (0, v >>> (n.toNat - 16)) := by
  rw [shrValue, mul_ediv_pow2 h, u16_ushiftRight, pow2_eq, u16_ushiftRight, BitVec.ushiftRight_eq_zero h]
  rfl

theorem asrValue_of_sixteen_le (v : Word) :
    asrValue v n = (v.sshiftRight n.toNat, v.sshiftRight (n.toNat - 16)) := by
  rw [asrValue, mul_ediv_pow2 h, u16_sshiftRight, pow2_eq, u16_sshiftRight]

theorem shlValue_of_sixteen_le (v : Word) : shlValue v n = (0, v <<< (n.toNat - 16)) := by
  have high : nat v * pow2 n / 65536 = nat v * 2 ^ (n.toNat - 16) := by
    rw [pow2_of_sixteen_le h, ← mul_assoc, Int.mul_ediv_cancel _ (by norm_num)]
  rw [shlValue, high, u16_shiftLeft, pow2_eq, u16_shiftLeft, BitVec.shiftLeft_eq_zero h]
  rfl

end FromSixteen

/-- Shifted by its width or more, a word is its sign throughout. -/
theorem sshiftRight_of_sixteen_le (v : Word) {m : Nat} (h : 16 ≤ m) :
    v.sshiftRight m = if v.msb then 0xFFFF else 0 := by
  cases sign : v.msb with
  | false => exact (BitVec.sshiftRight_eq_of_msb_false sign).trans (BitVec.ushiftRight_eq_zero h)
  | true =>
    rw [BitVec.sshiftRight_eq_of_msb_true sign, BitVec.ushiftRight_eq_zero h]
    rfl

theorem u16_mul_65536 (m : Int) : u16 (m * 65536) = 0 := u16_congr (n := 0) (by omega)

/-- A count of 0 leaves the value, and no bit is shifted out into EX. -/
theorem shiftValues_zero (v : Word) : shrValue v 0 = (v, 0) ∧ shlValue v 0 = (v, 0) ∧ asrValue v 0 = (v, 0) := by
  have one : pow2 0 = 1 := rfl
  have noHigh : nat v / 65536 = 0 := Int.ediv_eq_zero_of_lt (Int.natCast_nonneg _) (Int.ofNat_lt.mpr v.isLt)
  refine ⟨?_, ?_, ?_⟩
  · rw [shrValue, one, Int.ediv_one, Int.ediv_one, u16_nat, u16_mul_65536]
  · rw [shlValue, one, Int.mul_one, noHigh, u16_nat]
    rfl
  · rw [asrValue, one, Int.ediv_one, Int.ediv_one, s16_eq_toInt, u16_toInt, u16_mul_65536]

/-- Settles O18: from 16 on, EX is the value shifted on by count - 16; from 32 on that shift too is by the whole width. -/
theorem shiftCountsOfSixteenAndMore : Obligations.ShiftCountsOfSixteenAndMore := by
  intro v n
  obtain ⟨shr0, shl0, asr0⟩ := shiftValues_zero v
  have shr16 : shrValue v 16 = ((0 : Word), v >>> 0) := shrValue_of_sixteen_le (n := 16) (by decide) v
  have shl16 : shlValue v 16 = ((0 : Word), v <<< 0) := shlValue_of_sixteen_le (n := 16) (by decide) v
  rw [BitVec.ushiftRight_zero] at shr16
  rw [BitVec.shiftLeft_zero] at shl16
  refine ⟨shr0, shl0, asr0, shr16, shl16,
    fun h _ => ⟨shrValue_of_sixteen_le h.le v, shlValue_of_sixteen_le h.le v⟩, fun h => ?_⟩
  have h16 : 16 ≤ n.toNat := by omega
  have rest : 16 ≤ n.toNat - 16 := by omega
  refine ⟨?_, ?_, ?_⟩
  · rw [shrValue_of_sixteen_le h16, BitVec.ushiftRight_eq_zero rest]
    rfl
  · rw [shlValue_of_sixteen_le h16, BitVec.shiftLeft_eq_zero rest]
    rfl
  · rw [asrValue_of_sixteen_le h16, sshiftRight_of_sixteen_le v h16, sshiftRight_of_sixteen_le v rest]
    split <;> rfl

/-! ## The table of signed division -/

/-- Settles O23: the table's rows by evaluation, and the zero-divisor case of either function. -/
theorem signedDivisionTable : Obligations.SignedDivisionTable := by
  have byZero : ∀ v, dviValue v 0 = (0, 0) ∧ mdiValue v 0 = 0 := fun _ => ⟨rfl, rfl⟩
  refine ⟨?_, ?_, ?_, ?_, ?_, ?_, ?_, ?_, ?_, ?_, byZero⟩ <;> decide

end Sys2Proof.Machine
end

section
/-! PROOFS. The value-producing instructions (42_arithmetic.md R160-R180): how one completes, once for those that leave EX and
once for those that set it, and then each by its value function. -/

namespace Sys2Proof.Machine
open Sys2Proof

/-! ## How an instruction completes -/

/-- A `produce` instruction completes with what its value function gives, and leaves EX by the frame of EX. -/
theorem completesWriting_of_produce {i : Instr} {b a : Operand} {v f : Word → Word → Word}
    (value : ∀ bv av, v bv av = f bv av) (runs : ∀ s, exec i s = produce b a s v)
    (leavesEx : i.setsEx = false) (writes : i.destination = some b) : CompletesWriting i b a f := by
  obtain rfl : v = f := funext₂ value
  intro s
  refine ⟨runs s, fun h => ?_⟩
  have completes := (runs s).trans (produce_unclaimed h b a v)
  exact ⟨completes, fun hb => exec_ex completes leavesEx fun e => hb (Option.some.inj (writes.symm.trans e))⟩

/-- A `produceEx` instruction completes with the two parts of what its value function gives, EX read as the decode leaves
it, which is as it was. -/
theorem completesWritingEx_of_produceEx {i : Instr} {b a : Operand} {v : Word → Word → Word → Word × Word}
    {f g : Word → Word → Word → Word} (value : ∀ bv av ex, v bv av ex = (f bv av ex, g bv av ex))
    (runs : ∀ s, exec i s = produceEx b a s v) : CompletesWritingEx i b a f g := by
  obtain rfl : v = fun bv av ex => (f bv av ex, g bv av ex) := funext₃ value
  intro s
  refine ⟨runs s, fun h => ?_⟩
  have completes := (runs s).trans (produceEx_unclaimed h b a _)
  rwa [basicOperands_ex] at completes

/-! ## The instructions that leave EX -/

/-- Settles O11: SET's value is a's. -/
theorem setResult : Obligations.SetResult := fun b a =>
  completesWriting_of_produce (i := .set b a) (fun _ _ => rfl) (fun _ => rfl) rfl rfl

/-- Settles O15: the remainders of `modValue_eq` and `mdiValue_eq`. -/
theorem modAndMdiResult : Obligations.ModAndMdiResult := fun b a =>
  ⟨completesWriting_of_produce (i := .mod b a) modValue_eq (fun _ => rfl) rfl rfl,
    completesWriting_of_produce (i := .mdi b a) mdiValue_eq (fun _ => rfl) rfl rfl⟩

/-- Settles O16: the bitwise operations of words, bit by bit. -/
theorem logicResult : Obligations.LogicResult := fun b a =>
  ⟨⟨_, completesWriting_of_produce (i := .and b a) (fun _ _ => rfl) (fun _ => rfl) rfl rfl,
      fun _ _ _ => BitVec.getLsbD_and⟩,
    ⟨_, completesWriting_of_produce (i := .bor b a) (fun _ _ => rfl) (fun _ => rfl) rfl rfl,
      fun _ _ _ => BitVec.getLsbD_or⟩,
    ⟨_, completesWriting_of_produce (i := .xor b a) (fun _ _ => rfl) (fun _ => rfl) rfl rfl,
      fun _ _ _ => BitVec.getLsbD_xor⟩⟩

/-! ## The instructions that set EX -/

/-- Settles O12: the wrapped sum and difference, with carry and borrow. -/
theorem addAndSubResult : Obligations.AddAndSubResult := fun b a =>
  ⟨completesWritingEx_of_produceEx (i := .add b a) (fun bv av _ => addValue_eq bv av) fun _ => rfl,
    completesWritingEx_of_produceEx (i := .sub b a) (fun bv av _ => subValue_eq bv av) fun _ => rfl⟩

/-- Settles O13: the two halves of the 32-bit product. -/
theorem mulAndMliResult : Obligations.MulAndMliResult := fun b a =>
  ⟨completesWritingEx_of_produceEx (i := .mul b a) (fun bv av _ => mulValue_eq bv av) fun _ => rfl,
    completesWritingEx_of_produceEx (i := .mli b a) (fun bv av _ => mliValue_eq bv av) fun _ => rfl⟩

/-- Settles O14: the quotient and the fraction word, with the zero divisor apart. -/
theorem divAndDviResult : Obligations.DivAndDviResult := fun b a =>
  ⟨completesWritingEx_of_produceEx (i := .div b a) (fun bv av _ => divValue_eq bv av) fun _ => rfl,
    completesWritingEx_of_produceEx (i := .dvi b a) (fun bv av _ => dviValue_eq bv av) fun _ => rfl⟩

/-- Settles O17: division and multiplication by the power of two are the shifts of words. -/
theorem shiftResult : Obligations.ShiftResult := fun b a =>
  ⟨completesWritingEx_of_produceEx (i := .shr b a) (fun bv av _ => shrValue_eq bv av) fun _ => rfl,
    completesWritingEx_of_produceEx (i := .asr b a) (fun bv av _ => asrValue_eq bv av) fun _ => rfl,
    completesWritingEx_of_produceEx (i := .shl b a) (fun bv av _ => shlValue_eq bv av) fun _ => rfl⟩

/-- Settles O19: sum and difference with EX as unsigned carry input. -/
theorem adxAndSbxResult : Obligations.AdxAndSbxResult := fun b a =>
  ⟨completesWritingEx_of_produceEx (i := .adx b a) adxValue_eq fun _ => rfl,
    completesWritingEx_of_produceEx (i := .sbx b a) sbxValue_eq fun _ => rfl⟩

/-- With EX as destination the result is overwritten by the new EX (R178). -/
theorem produceEx_ex_unclaimed {s : State} (h : s.Unclaimed) (a : Operand) (v : Word → Word → Word → Word × Word) :
    produceEx .ex a s v = .next { (s.basicOperands .ex a).after with
      ex := (v (s.basicOperands .ex a).bv (s.basicOperands .ex a).av s.ex).2 } := by
  rw [produceEx_unclaimed h, basicOperands_ex]
  rfl

/-- Settles O22: each of the eleven is `produceEx` of its value function. -/
theorem exIsWrittenAfterTheDestination : Obligations.ExIsWrittenAfterTheDestination := by
  intro a s h
  simp only [List.forall_mem_cons]
  have ends := produceEx_ex_unclaimed h a
  exact ⟨ends fun bv av _ => addValue bv av, ends fun bv av _ => subValue bv av, ends fun bv av _ => mulValue bv av,
    ends fun bv av _ => mliValue bv av, ends fun bv av _ => divValue bv av, ends fun bv av _ => dviValue bv av,
    ends fun bv av _ => shrValue bv av, ends fun bv av _ => asrValue bv av, ends fun bv av _ => shlValue bv av,
    ends adxValue, ends sbxValue, List.forall_mem_nil _⟩

/-! ## STI and STD -/

/-- I and J, each with `d` added, in the registers as they are. -/
theorem bumpIJ_eq (d : Word) :
    bumpIJ d = fun t => { t with regs := { t.regs with i := t.regs.i + d, j := t.regs.j + d } } := rfl

/-- Adding -1 is taking 1 away. -/
theorem bumpIJ_neg_one :
    bumpIJ (-1) = fun t => { t with regs := { t.regs with i := t.regs.i - 1, j := t.regs.j - 1 } } := by
  simp only [BitVec.sub_eq_add_neg]
  exact bumpIJ_eq (-1)

/-- The store is done, and then I and J are changed in the state it leaves (R179, R180). -/
theorem setAndBump_unclaimed {s : State} (h : s.Unclaimed) (b a : Operand) (d : Word) :
    setAndBump b a s d = .next (bumpIJ d ((s.basicOperands b a).store (s.basicOperands b a).av)) := by
  rw [setAndBump, withBasic_unclaimed h, writeLoc_unclaimed ((basicOperands_lines s b a).trans h), bind_ok, outcome_ok]
  rfl

/-- Settles O20: SET's store and then the change of I and J; the store leaves EX as SET does. -/
theorem stiAndStdResult : Obligations.StiAndStdResult := by
  intro b a s
  rw [← bumpIJ_eq 1, ← bumpIJ_neg_one]
  exact ⟨rfl, rfl, fun h => ⟨setAndBump_unclaimed h b a 1, setAndBump_unclaimed h b a (-1),
    ((setResult b a s).2 h).2⟩⟩

end Sys2Proof.Machine
end

section
/-! PROOFS. The conditionals (43_conditionals.md R200-R208): each condition as a relation of words, and how a conditional
completes, once for all eight. -/

namespace Sys2Proof.Machine
open Sys2Proof

/-! ## The conditions -/

/-- Two words have no bit in common: their conjunction is 0. -/
theorem and_eq_zero_iff (v w : Word) :
    v &&& w = 0 ↔ ∀ n : Fin 16, v.getLsbD n = false ∨ w.getLsbD n = false := by
  rw [BitVec.eq_of_getLsbD_eq_iff, Fin.forall_iff]
  refine forall₂_congr fun n _ => ?_
  rw [BitVec.getLsbD_and, BitVec.ofNat_eq_ofNat, BitVec.getLsbD_zero, Bool.and_eq_false_iff]

theorem ifcCond_eq (bv av : Word) :
    ifcCond bv av = decide (∀ n : Fin 16, bv.getLsbD n = false ∨ av.getLsbD n = false) :=
  decide_eq_decide.mpr (and_eq_zero_iff bv av)

/-- IFB is IFC negated: some bit is in common when it is not so that none is. -/
theorem ifbCond_eq (bv av : Word) :
    ifbCond bv av = decide (∃ n : Fin 16, bv.getLsbD n = true ∧ av.getLsbD n = true) := by
  rw [show ifbCond bv av = !ifcCond bv av from rfl, ifcCond_eq, ← decide_not]
  simp

theorem ifnCond_eq (bv av : Word) : ifnCond bv av = decide (bv ≠ av) := (decide_not (p := bv = av)).symm

theorem iflCond_eq (bv av : Word) : iflCond bv av = bv.ult av := decide_eq_decide.mpr Int.ofNat_lt

theorem ifuCond_eq (bv av : Word) : ifuCond bv av = bv.slt av := by
  rw [ifuCond, s16_eq_toInt, s16_eq_toInt, BitVec.slt]

/-! ## How a conditional completes -/

/-- A conditional completes with SKIP set where its condition is false, in the state the decode leaves. -/
theorem completesTesting_of_conditional {i : Instr} {b a : Operand} {c cond : Word → Word → Bool}
    (value : ∀ bv av, c bv av = cond bv av) (runs : ∀ s, exec i s = conditional b a s c) :
    CompletesTesting i b a cond := by
  obtain rfl : c = cond := funext₂ value
  intro s
  refine ⟨runs s, fun h => ?_⟩
  have completes := (runs s).trans (conditional_unclaimed h b a c)
  refine ⟨fun holds => ?_, fun fails => ?_⟩
  · rwa [if_pos holds] at completes
  · rwa [if_neg (Bool.eq_false_iff.mp fails)] at completes

/-- Settles O21: IFG and IFA test what IFL and IFU do, with the operands exchanged. -/
theorem conditionalResult : Obligations.ConditionalResult := fun b a =>
  ⟨completesTesting_of_conditional (i := .ifb b a) ifbCond_eq fun _ => rfl,
    completesTesting_of_conditional (i := .ifc b a) ifcCond_eq fun _ => rfl,
    completesTesting_of_conditional (i := .ife b a) (fun _ _ => rfl) fun _ => rfl,
    completesTesting_of_conditional (i := .ifn b a) ifnCond_eq fun _ => rfl,
    completesTesting_of_conditional (i := .ifg b a) (fun bv av => iflCond_eq av bv) fun _ => rfl,
    completesTesting_of_conditional (i := .ifa b a) (fun bv av => ifuCond_eq av bv) fun _ => rfl,
    completesTesting_of_conditional (i := .ifl b a) iflCond_eq fun _ => rfl,
    completesTesting_of_conditional (i := .ifu b a) ifuCond_eq fun _ => rfl⟩

end Sys2Proof.Machine
end

section
/-! PROOFS. The special instructions (44_special.md R219-R231): what the decode of an operand leaves, and then each
instruction in closed form where no line is claimed; call and return; the refused words; the reserved opcodes. -/

namespace Sys2Proof.Machine
open Sys2Proof

/-! ## What the decode of an operand leaves -/

/-- Where no line is claimed, resolving changes PC and SP alone (R111-R123). -/
theorem plainResolve_frame (o : Operand) (s : State) :
    ∃ pc sp, (plainResolve o s).2 = { s with pc := pc, sp := sp } := by
  cases o <;> exact ⟨_, _, rfl⟩

/-- The decode leaves the interrupt state: IA, SUSP, and the queue with its capacity. -/
theorem specialOperand_interrupts (s : State) (a : Operand) :
    (s.specialOperand a).after.ia = s.ia ∧ (s.specialOperand a).after.susp = s.susp ∧
      (s.specialOperand a).after.intq = s.intq ∧ (s.specialOperand a).after.intQueueCap = s.intQueueCap := by
  obtain ⟨pc, sp, frame⟩ := plainResolve_frame a s
  rw [show (s.specialOperand a).after = { s with pc := pc, sp := sp } from frame]
  exact ⟨rfl, rfl, rfl, rfl⟩

section Unclaimed
variable {s : State} (h : s.Unclaimed) (a : Operand)
include h

/-- A special instruction completes with its effect in the state the decode leaves. -/
theorem outcome_special_unclaimed (k : Loc → Word → State → Res Unit) :
    (withSpecial a s k).outcome =
      (k (s.specialOperand a).loc (s.specialOperand a).av (s.specialOperand a).after).outcome :=
  congrArg Res.outcome (withSpecial_unclaimed h a k)

theorem specialOperand_unclaimed : (s.specialOperand a).after.Unclaimed := (specialOperand_lines s a).trans h

/-- The decode moves PC past the trailing word, if the operand takes one (R85, R124). -/
theorem specialOperand_pc : (s.specialOperand a).after.pc = s.pc + BitVec.ofNat 16 a.takesWord.toNat :=
  resolve_pc (resolve_unclaimed h a)

/-- Only PUSH and POP move SP in the decode (R114, R115). -/
theorem specialOperand_sp (push : a ≠ .push) (pop : a ≠ .pop) : (s.specialOperand a).after.sp = s.sp := by
  have kept := resolve_sp s push pop
  rwa [resolve_unclaimed h a] at kept

end Unclaimed

/-! ## JSR -/

/-- JSR where no line is claimed: PC pushed, then PC at the operand's value (R220). -/
theorem exec_jsr_unclaimed {s : State} (h : s.Unclaimed) (a : Operand) :
    let d := s.specialOperand a
    exec (.jsr a) s = .next (((d.after.setSp (d.after.sp - 1)).rawWrite (d.after.sp - 1) d.after.pc).setPc d.av) := by
  refine (outcome_special_unclaimed h a _).trans ?_
  rw [pushWord_unclaimed (specialOperand_unclaimed h a), bind_ok, outcome_ok]

/-- Settles O24: the push is a write of the slot below SP, by the laws of canonical RAM. -/
theorem jsrResult : Obligations.JsrResult := by
  refine fun a s => ⟨rfl, fun h canonical => ⟨_, exec_jsr_unclaimed h a, rfl, ?_, fun x other => ?_⟩⟩
  · exact rawRead_rawWrite_same _ _ ((congrArg Memory.wf (specialOperand_ram s a)).trans canonical)
  · exact rawRead_rawWrite_other _ _ other

/-- Settles O32: the POP finds the word JSR pushed, PC as the decode left it, and takes SP back over its slot. -/
theorem callAndReturn : Obligations.CallAndReturn := by
  refine ⟨by decide, fun a s h canonical => ?_⟩
  obtain ⟨t, called, frame, pushed, -⟩ := (jsrResult a s).2 h canonical
  have slot : t.sp = (s.specialOperand a).after.sp - 1 := congrArg State.sp frame
  refine ⟨t, called, fun u hu sp word => ⟨_, exec_set_unclaimed hu .pc .pop, ?_, ?_⟩⟩
  · calc u.rawRead u.sp = t.rawRead t.sp := word
      _ = (s.specialOperand a).after.pc := by rw [slot, pushed]
      _ = s.pc + BitVec.ofNat 16 a.takesWord.toNat := specialOperand_pc h a
  · have restored : u.sp + 1 = (s.specialOperand a).after.sp := by
      rw [sp, slot]
      exact BitVec.sub_add_cancel _ 1
    exact ⟨restored, fun push pop => restored.trans (specialOperand_sp h a push pop)⟩

/-! ## HCF, IAQ, IAG and IAS -/

/-- Settles O25: each is one flag set in the state the decode leaves. -/
theorem hcfAndIaqResult : Obligations.HcfAndIaqResult := by
  refine fun a s => ⟨rfl, ?_, fun h => ⟨outcome_special_unclaimed h a _, fun nonzero => ?_, fun zero => ?_⟩⟩
  · have test : (fun av : Word => av != 0) = fun av => decide (av ≠ 0) := funext fun av => ifnCond_eq av 0
    exact congrArg (fun flag : Word → Bool => (withSpecial a s fun _ av u => .ok () (u.setSusp (flag av))).outcome) test
  all_goals refine (outcome_special_unclaimed h a _).trans ?_
  · rw [bne_iff_ne.mpr nonzero]
    rfl
  · rw [zero]
    rfl

/-- Settles O27: IA is read and written in the state the decode leaves, which has IA, SUSP and INTQ as they were. -/
theorem iagAndIasResult : Obligations.IagAndIasResult := by
  refine fun a s => ⟨rfl, rfl, fun h => ?_⟩
  obtain ⟨ia, susp, intq, -⟩ := specialOperand_interrupts s a
  refine ⟨?_, outcome_special_unclaimed h a _, susp, intq⟩
  rw [← ia]
  exact (outcome_special_unclaimed h a _).trans
    (congrArg Res.outcome (writeLoc_unclaimed (specialOperand_unclaimed h a) _ _))

/-! ## INT -/

/-- The gate: dropped while IA = 0, queued while there is room, else QueueOverflow (R263, R264). -/
theorem post_gate (m : Word) (u : State) : (u.ia = 0 → post m u = .ok () u) ∧
    (u.ia ≠ 0 → u.intq.length < u.intQueueCap → post m u = .ok () (u.setIntq (u.intq ++ [m]))) ∧
    (u.ia ≠ 0 → u.intQueueCap ≤ u.intq.length → post m u = .raised (u.setFault .queueOverflow)) := by
  refine ⟨post_disabled m, fun handler room => ?_, fun handler full => ?_⟩
  · rw [post, if_neg handler, enqueue, if_pos room]
  · rw [post, if_neg handler, enqueue, if_neg full.not_gt, raiseFault]

/-- Settles O26: the gate, in the state the decode leaves, which has IA and the queue as they were. -/
theorem intResult : Obligations.IntResult := by
  refine fun a s => ⟨rfl, post_gate, fun h => ⟨specialOperand_pc h a, ?_⟩⟩
  obtain ⟨drops, queues, overflows⟩ := post_gate (s.specialOperand a).av (s.specialOperand a).after
  obtain ⟨ia, -, intq, cap⟩ := specialOperand_interrupts s a
  have runs : exec (.int a) s = (post (s.specialOperand a).av (s.specialOperand a).after).outcome :=
    outcome_special_unclaimed h a _
  rw [runs, ← ia, ← intq, ← cap]
  exact ⟨fun i => congrArg Res.outcome (drops i), fun i room => congrArg Res.outcome (queues i room),
    fun i full => congrArg Res.outcome (overflows i full)⟩

/-! ## RFI -/

/-- Sequencing is associative: a fault ends the rest of the chain either way. -/
theorem bind_bind {α β γ : Type} (r : Res α) (k : α → State → Res β) (l : β → State → Res γ) :
    (r.bind k).bind l = r.bind fun v s => (k v s).bind l := by
  cases r <;> rfl

/-- The return from interrupt as two reads, each with SP one higher after it (R225). -/
theorem returnFromInterrupt_eq (u : State) : returnFromInterrupt u =
    (memRead u.sp u).bind fun v u =>
    (memRead (u.sp + 1) ((u.setSp (u.sp + 1)).setReg .a v)).bind fun p u =>
    .ok () (((u.setPc p).setSp (u.sp + 1)).setSusp false) := by
  simp only [returnFromInterrupt, popWord, bind_bind, bind_ok]
  rfl

/-- Settles O28: the two pops in closed form, each read taken apart from the SP it moves. -/
theorem rfiResult : Obligations.RfiResult := by
  refine fun a s => ⟨?_, fun h => ?_⟩
  · exact congrArg (fun pops => (withSpecial a s fun _ _ => pops).outcome) (funext returnFromInterrupt_eq)
  · refine (outcome_special_unclaimed h a _).trans ?_
    have two (x : Word) : x + 1 + 1 = x + 2 := BitVec.add_assoc x 1 1
    rw [returnFromInterrupt_unclaimed (specialOperand_unclaimed h a), two]
    rfl

/-! ## HWN, HWQ and HWI -/

/-- A core with REFUSED set and no fault answers the refusal, whatever HALT is (log 3). -/
theorem step_refused {t : State} {r : RefuseReason} (unfaulted : t.fault = none) (mark : t.refused = some r) :
    step t = .refused (.unmodelledInstruction r) := by
  rw [step_eq, nextStep, unfaulted, mark]

/-- A step whose opcode fetch answers a refused word ends with the mark set, and no step follows (R277). -/
theorem step_of_refused_fetch {s u : State} {w : Word} {r : RefuseReason} (x : s.Executes)
    (f : fetch s.captureShadows = .ok w u) (refused : exec (decode w) u = .next (u.setRefused r)) :
    step s = .next (u.setRefused r) ∧ step (u.setRefused r) = .refused (.unmodelledInstruction r) := by
  have unfaulted : s.fault = none := (stopped_eq_false.mp x.1).2.1
  refine ⟨?_, step_refused (((fetch_faultTold _).1 w u f).trans unfaulted) rfl⟩
  rw [step_of_fetch x f refused, if_pos (marked_iff.mpr (.inr rfl))]

/-- Settles O29: the three rows are run by their mark alone; skipped, the word's length is that of any other. -/
theorem refusedInstructions : Obligations.RefusedInstructions := by
  refine ⟨fun _ _ => ⟨rfl, rfl, rfl⟩, fun a s w r row => ?_⟩
  have refused (u : State) : exec (decode w) u = .next (u.setRefused r) := by
    rw [row]
    cases r <;> rfl
  have length : wordLength w = 1 + a.takesWord.toNat := by
    rw [← length_decode, row]
    cases r <;> rfl
  refine ⟨fun x u f => step_of_refused_fetch x f (refused u), fun x h word => ?_, fun run k h word => ?_⟩
  · subst word
    exact step_of_refused_fetch x (fetch_unclaimed (s := s.captureShadows) h) (refused _)
  · rw [step_skip run k, skipStep_unclaimed h, word, length, BitVec.ofNat_add, ← BitVec.add_assoc]
    rfl

/-! ## The reserved opcodes -/

section Reserved
variable {s : State} (h : s.Unclaimed)
include h

/-- Where no line is claimed, a reserved basic word resolves b and then a, and halts (R230). -/
theorem reservedBasic_unclaimed (b a : Operand) :
    ∃ pc sp, reservedBasic b a s = .next { s with pc := pc, sp := sp, reservedExec := true, halt := true } ∧
      (plainResolve a (plainResolve b s).2).2 = { s with pc := pc, sp := sp } := by
  have resolved : reservedBasic b a s =
      .next (((plainResolve a (plainResolve b s).2).2.setReservedExec true).setHalt true) := by
    rw [reservedBasic, resolve_unclaimed h, bind_ok, resolve_unclaimed ((plainResolve_lines b s).trans h)]
    rfl
  obtain ⟨pc1, sp1, frameB⟩ := plainResolve_frame b s
  obtain ⟨pc, sp, frameA⟩ := plainResolve_frame a (plainResolve b s).2
  have frame : (plainResolve a (plainResolve b s).2).2 = { s with pc := pc, sp := sp } := by rw [frameA, frameB]
  exact ⟨pc, sp, by rw [resolved, frame]; rfl, frame⟩

/-- Where no line is claimed, a reserved special word resolves its operand, and halts (R230). -/
theorem reservedSpecial_unclaimed (a : Operand) :
    ∃ pc sp, reservedSpecial a s = .next { s with pc := pc, sp := sp, reservedExec := true, halt := true } ∧
      (plainResolve a s).2 = { s with pc := pc, sp := sp } := by
  obtain ⟨pc, sp, frame⟩ := plainResolve_frame a s
  refine ⟨pc, sp, ?_, frame⟩
  rw [reservedSpecial, resolve_unclaimed h, bind_ok, frame]
  rfl

/-- Where no line is claimed, every reserved opcode moves PC and SP alone, and halts (R230). -/
theorem exec_reserved_unclaimed {i : Instr} (reserved : i.isReserved = true) :
    ∃ pc sp, exec i s = .next { s with pc := pc, sp := sp, reservedExec := true, halt := true } := by
  rcases exec_reserved reserved s with ⟨b, a, runs⟩ | ⟨a, runs⟩
  · obtain ⟨pc, sp, halts, -⟩ := reservedBasic_unclaimed h b a
    exact ⟨pc, sp, runs.trans halts⟩
  · obtain ⟨pc, sp, halts, -⟩ := reservedSpecial_unclaimed h a
    exact ⟨pc, sp, runs.trans halts⟩

end Reserved

/-- Settles O30: each row is run by `reservedBasic` or `reservedSpecial`, and with no device the step only adds its CYC. -/
theorem reservedOpcodes : Obligations.ReservedOpcodes := by
  refine ⟨fun b a s i row => ?_, fun a s i row => ?_, fun s run n reserved => ⟨fun x => ?_, fun k => ?_⟩⟩
  · have runs : exec i s = reservedBasic b a s := by fin_cases row <;> rfl
    rw [runs]
    exact ⟨rfl, fun h => reservedBasic_unclaimed h b a⟩
  · have runs : exec i s = reservedSpecial a s := by fin_cases row <;> rfl
    rw [runs]
    exact ⟨rfl, fun h => reservedSpecial_unclaimed h a⟩
  · obtain ⟨v, e, counted⟩ := execStep_noDevices n
    obtain ⟨pc, sp, halts⟩ := exec_reserved_unclaimed (s := s.captureShadows.setPc (s.pc + 1)) n.1 reserved
    cases e.symm.trans halts
    obtain ⟨-, unfaulted, unrefused⟩ := stopped_eq_false.mp run
    refine ⟨pc, sp, ?_⟩
    rw [step_exec x, counted, if_neg]
    · rfl
    · exact Bool.eq_false_iff.mp (marked_eq_false.mpr ⟨unfaulted, unrefused⟩)
  · rw [step_skip run k, skipStep_unclaimed n.1]
    exact ⟨_, rfl, (stopped_eq_false.mp run).1, rfl⟩

end Sys2Proof.Machine
end

section
/-! PROOFS. Interrupts and faults (60_exceptions.md): the dispatch and the return from it, the queue's overflow, the ticks of
a step, and a machine whose interrupts are disabled. -/

namespace Sys2Proof.Machine
open Sys2Proof

/-! ## Dispatch and return -/

/-- A dispatch of a waiting message takes it off the queue and enters the handler (R268). -/
theorem dispatch_of_intq {s : State} {m : Word} {rest : List Word} (queued : s.intq = m :: rest) :
    dispatch s = enterHandler m (s.setIntq rest) := by
  rw [dispatch, queued]

/-- What interrupt entry leaves in RAM: PC and A in two slots of the stack, every other word as it was (R268). -/
theorem enterHandler_stack {s : State} (h : s.Unclaimed) (canonical : Memory.wf s.ram = true) (m : Word) :
    ∃ t, enterHandler m s = .ok () t ∧
      t = { s with regs := { s.regs with a := m }, pc := s.ia, sp := s.sp - 2, susp := true, ram := t.ram } ∧
      t.rawRead (s.sp - 1) = s.pc ∧ t.rawRead (s.sp - 2) = s.regs.a ∧
      ∀ x, x ≠ s.sp - 1 → x ≠ s.sp - 2 → t.rawRead x = s.rawRead x := by
  have two : s.sp - 1 - 1 = s.sp - 2 := by bv_omega
  have distinct : s.sp - 1 ≠ s.sp - 2 := by bv_omega
  -- the state after the first push, up to SP, which no read of RAM sees
  let pushed := s.rawWrite (s.sp - 1) s.pc
  have slot : pushed.rawRead (s.sp - 1) = s.pc := rawRead_rawWrite_same _ _ canonical
  refine ⟨_, (enterHandler_unclaimed h m).trans (by rw [two]), rfl, ?_, ?_, fun x first second => ?_⟩
  · exact (rawRead_rawWrite_other pushed (s.reg .a) distinct).trans slot
  · exact rawRead_rawWrite_same (s := pushed) _ _ (wf_write _ _ canonical)
  · exact (rawRead_rawWrite_other pushed (s.reg .a) second).trans (rawRead_rawWrite_other s s.pc first)

/-- Settles O43: the dispatch is interrupt entry with the queue's head taken off. -/
theorem dispatchStep : Obligations.DispatchStep := by
  intro s m rest run k queued handler unsuspended
  have due : s.dispatchEligible = true := dispatchEligible_iff.mpr ⟨by simp [queued], handler, unsuspended⟩
  have enters : step s = (enterHandler m (s.setIntq rest)).outcome := by
    rw [step_dispatch run k due, dispatch_of_intq queued]
  refine ⟨enters, fun h canonical => ?_⟩
  obtain ⟨t, entered, frame, stack⟩ := enterHandler_stack (s := s.setIntq rest) h canonical m
  exact ⟨t, by rw [enters, entered, outcome_ok], frame, stack⟩

/-- Settles O50: RFI pops the two words the dispatch pushed, A from the lower slot, and takes SP back over both. -/
theorem interruptRoundTrip : Obligations.InterruptRoundTrip := by
  intro s m rest run k queued handler unsuspended h canonical
  obtain ⟨t, dispatched, frame, savedPc, savedA, -⟩ :=
    (dispatchStep s m rest run k queued handler unsuspended).2 h canonical
  have low : t.sp = s.sp - 2 := congrArg State.sp frame
  have high : t.sp + 1 = s.sp - 1 := by rw [low]; bv_omega
  refine ⟨t, dispatched, fun u a hu sp lower upper pop push => ?_⟩
  have decoded : (u.specialOperand a).after.sp = u.sp := specialOperand_sp hu a push pop
  have words (x : Word) : (u.specialOperand a).after.rawRead x = u.rawRead x := rawRead_congr (specialOperand_ram u a) x
  have returned := (rfiResult a u).2 hu
  rw [decoded, words, words] at returned
  refine ⟨_, returned, ?_, ?_, ?_, rfl⟩
  · calc u.sp + 2 = s.sp - 2 + 2 := by rw [sp, low]
      _ = s.sp := BitVec.sub_add_cancel _ 2
  · calc u.rawRead u.sp = t.rawRead t.sp := lower
      _ = s.reg .a := by rw [low, savedA]; rfl
  · calc u.rawRead (u.sp + 1) = t.rawRead (t.sp + 1) := upper
      _ = s.pc := by rw [high, savedPc]

/-! ## Overflow of the queue -/

/-- A core with FAULT set answers the fault, whatever its other marks are (log 3). -/
theorem step_faulted {t : State} {r : FaultReason} (mark : t.fault = some r) : step t = .fault (.raised r) := by
  rw [step_eq, nextStep, mark]

/-- Settles O31: the meaning of INT leaves the mark, and a marked state ends the step before CYC and the ticks. -/
theorem queueOverflowStep : Obligations.QueueOverflowStep := by
  intro a s x h isInt handler full d t
  obtain ⟨-, -, completes⟩ := intResult a (s.captureShadows.setPc (s.pc + 1))
  obtain ⟨-, -, -, overflows⟩ := completes h
  have raises : exec (.int a) (s.captureShadows.setPc (s.pc + 1)) = .next t := overflows handler full
  have stops : step s = .next t := by
    rw [step_of_fetch x (fetch_unclaimed (s := s.captureShadows) h) (isInt.symm ▸ raises), if_pos (marked_iff.mpr (.inl rfl))]
  obtain ⟨-, -, intq, -⟩ := specialOperand_interrupts (s.captureShadows.setPc (s.pc + 1)) a
  obtain ⟨cyc, calls⟩ := Prod.mk.inj (exec_cyc_calls raises h)
  exact ⟨stops, intq, cyc, calls, step_faulted rfl⟩

/-! ## The ticks of a step -/

/-- The ticks among calls logged one after the other. -/
theorem ticks_append {s t : State} {w : Word} {ds : List DeviceId} (h : t.calls = s.calls ++ ds.map (DeviceCall.onTick · w)) :
    t.ticks = s.ticks ++ ds.map (DeviceCall.onTick · w) := by
  rw [State.ticks, h, List.filter_append]
  exact congrArg (s.ticks ++ ·) (List.filter_eq_self.mpr (by simp))

/-- Ticking calls the devices of the list in order, up to the one whose call raises, if any does (R148, R283). -/
theorem tickAll_calls_take (w : Word) (ds : List DeviceId) (s : State) :
    ∃ n, (tickAll w ds s).state.calls = s.calls ++ (ds.take n).map (DeviceCall.onTick · w) := by
  induction ds generalizing s with
  | nil => exact ⟨0, by simp [tickAll]⟩
  | cons d ds ih =>
    have called := callDevice_calls (.onTick d w) s
    rw [tickAll]
    cases e : callDevice (.onTick d w) s with
    | raised u => exact ⟨1, by simpa [e] using called⟩
    | ok v u =>
      rw [e, state_ok] at called
      obtain ⟨n, rest⟩ := ih u
      exact ⟨n + 1, by simp [rest, called]⟩

/-- The fetch of the opcode word ticks no device (R148). -/
theorem fetch_ticks (s : State) : (fetch s.captureShadows).state.ticks = s.ticks := ticks_respected.fetch s.captureShadows

/-- A step that ticked devices has run its instruction without a mark; any other has ticked none, and an instruction step
among those ends with a mark (R147, R148, R283). -/
theorem step_ticks {s t : State} (h : step s = .next t) :
    (t.ticks = s.ticks ∧ (s.Executes → t.marked = true)) ∨
    (s.Executes ∧ ∃ w u v, fetch s.captureShadows = .ok w u ∧ exec (decode w) u = .next v ∧ v.marked = false ∧
      v.ticks = s.ticks ∧ v.devs = s.devs ∧ (retire w v).state = t) := by
  obtain ⟨-, ⟨k, rfl⟩ | ⟨-, d, m, rest, -, rfl⟩ | ⟨x, h⟩⟩ := step_cases h
  · have read : (memRead s.pc s.captureShadows).state.ticks = s.ticks := ticks_respected.read _ _
    exact .inl ⟨(bind_state (P := fun a b => b.ticks = a.ticks) ticks_respected.trans read fun _ _ _ => rfl),
      fun ⟨_, k', _⟩ => by simp [k] at k'⟩
  · exact .inl ⟨ticks_respected.enterHandler m (s.setIntq rest), fun ⟨_, _, d'⟩ => by simp [d] at d'⟩
  · have fetched := fetch_ticks s
    have configured := (fetch_effect s.captureShadows).keeps.devs
    rcases execStep_cases h with f | ⟨w, u, v, f, e, end_⟩ <;> rw [f] at fetched configured
    · have fault : t.fault = some .queueOverflow := (fetch_faultTold _).2 t f
      exact .inl ⟨fetched, fun _ => marked_iff.mpr (.inl (by rw [fault]; rfl))⟩
    · have ticks : v.ticks = s.ticks := (ticks_respected.exec _ e).trans fetched
      rcases end_ with ⟨marked, rfl⟩ | ⟨unmarked, retired⟩
      · exact .inl ⟨ticks, fun _ => marked⟩
      · exact .inr ⟨x, w, u, v, f, e, unmarked, ticks, (exec_devs e).trans configured, retired⟩

/-- The end of an instruction ticks a first part of DEVS, all of it unless it sets FAULT, and leaves REFUSED. -/
theorem retire_ticks (w : Word) (v : State) :
    (∃ n, (retire w v).state.ticks = v.ticks ++ (v.devs.take n).map (DeviceCall.onTick · w)) ∧
    ((retire w v).state.marked = false → (retire w v).state.ticks = v.ticks ++ v.devs.map (DeviceCall.onTick · w)) ∧
    (retire w v).state.refused = v.refused := by
  obtain ⟨n, calls⟩ := tickAll_calls_take w v.devs (v.addCyc 1)
  refine ⟨⟨n, ticks_append (s := v) calls⟩, fun unmarked => ?_, (tickAll_effect w v.devs (v.addCyc 1)).refused⟩
  cases e : retire w v with
  | ok _ t => exact ticks_append (s := v) (tickAll_calls (s := v.addCyc 1) w v.devs e)
  | raised t =>
    have fault : t.fault = some .queueOverflow := (tickAll_faultTold w v.devs (v.addCyc 1)).2 t e
    rw [e, state_raised] at unmarked
    simp [(marked_eq_false.mp unmarked).1] at fault

/-- Settles O45: only the end of an unmarked instruction ticks devices, in the order of DEVS until one raises. -/
theorem ticksInAttachmentOrder : Obligations.TicksInAttachmentOrder := by
  intro s t h
  rcases step_ticks h with ⟨none, mark⟩ | ⟨⟨run, k, d⟩, w, u, v, f, e, unmarked, ticks, devs, rfl⟩
  · exact ⟨⟨0, 0, by simp [none]⟩, fun x unmarked => by simp [mark x] at unmarked, fun _ => none, fun _ => none⟩
  · obtain ⟨⟨n, part⟩, all, refused⟩ := retire_ticks w v
    rw [ticks, devs] at part all
    refine ⟨⟨w, n, part⟩, fun _ done => ⟨w, u, f, all done⟩, fun other => ?_, fun stopped => ?_⟩
    · rw [refused, (marked_eq_false.mp unmarked).2] at other
      simp [k, d] at other
    · rcases stopped with ⟨u', f'⟩ | ⟨w', u', v', f', e', marked⟩
      · cases f.symm.trans f'
      · cases f.symm.trans f'
        cases e.symm.trans e'
        simp [unmarked] at marked

/-! ## Interrupts disabled -/

/-- INTQ and FAULT of a core whose interrupts are disabled; nothing of one that has IA set (R263). -/
def State.disabledQueue (s : State) : Option (List Word × Option FaultReason) :=
  if s.ia = 0 then some (s.intq, s.fault) else none

/-- The same disabled queue before and after: with IA = 0, INTQ and FAULT are kept. -/
def Inert (s t : State) : Prop := t.disabledQueue = s.disabledQueue

theorem inert_trans (s t u : State) (a : Inert s t) (b : Inert t u) : Inert s u := b.trans a

theorem inert_of_ia {s t : State} (ia : t.ia = s.ia) (kept : s.ia = 0 → t.intq = s.intq ∧ t.fault = s.fault) :
    Inert s t := by
  unfold Inert State.disabledQueue
  rw [ia]
  split
  next off => rw [(kept off).1, (kept off).2]
  next => rfl

theorem Inert.kept {s t : State} (h : Inert s t) (off : s.ia = 0) : t.intq = s.intq ∧ t.fault = s.fault := by
  unfold Inert State.disabledQueue at h
  rw [if_pos off] at h
  split at h
  · exact Prod.mk.inj (Option.some.inj h)
  · cases h

/-- A post to a core with IA = 0 is dropped (R263). -/
theorem post_inert (m : Word) (s : State) : Inert s (post m s).state :=
  inert_of_ia (post_effect m s).ia fun off => by rw [post_disabled m off]; exact ⟨rfl, rfl⟩

theorem serveRequests_inert (qs : List DeviceRequest) (s : State) : Inert s (serveRequests qs s).state := by
  induction qs generalizing s with
  | nil => exact rfl
  | cons q qs ih =>
    refine bind_state inert_trans ?_ fun _ t _ => ih t
    cases q with
    | post m => exact post_inert m s
    | _ => exact rfl

/-- Whatever a device asks for in a call, it queues and faults nothing while IA = 0 (R263, R282). -/
theorem callDevice_inert (c : DeviceCall) (s : State) : Inert s (callDevice c s).state :=
  bind_state inert_trans (s := s) (serveRequests_inert _ (s.logCall c)) fun _ _ _ => rfl

theorem memRead_inert (a : Word) (s : State) : Inert s (memRead a s).state := by
  cases h : s.claimant a with
  | none => rw [memRead_ram h]; rfl
  | some d => rw [memRead_claimed h]; exact callDevice_inert _ s

theorem memWrite_inert (a v : Word) (s : State) : Inert s (memWrite a v s).state := by
  cases h : s.claimant a with
  | none => rw [memWrite_ram h]; rfl
  | some d => rw [memWrite_claimed h]; exact bind_state inert_trans (callDevice_inert _ s) fun _ _ _ => rfl

theorem tickAll_inert (w : Word) (ds : List DeviceId) (s : State) : Inert s (tickAll w ds s).state := by
  induction ds generalizing s with
  | nil => exact rfl
  | cons d ds ih => exact bind_state inert_trans (callDevice_inert _ s) fun _ t _ => ih t

/-- No instruction but IAS changes the disabled queue: reads, writes and INT's post are inert. -/
theorem exec_inert {i : Instr} {s t : State} (e : exec i s = .next t) (h : ∀ a, i ≠ .ias a) : Inert s t :=
  FrameOf.exec (f := State.disabledQueue)
    { read a s _ := memRead_inert a s
      write a v s _ := memWrite_inert a v s
      post _ m s := post_inert m s
      ia c := absurd c (not_exists.mpr h) } e rfl

/-- Two special instructions whose effects leave the same part of the state leave the same. -/
theorem withSpecial_congr {α : Type} (f : State → α) (a : Operand) (s : State) {k l : Loc → Word → State → Res Unit}
    (agree : ∀ al av u, f (k al av u).state = f (l al av u).state) :
    f (withSpecial a s k).state = f (withSpecial a s l).state := by
  unfold withSpecial
  cases resolve a s with
  | raised t => rfl
  | ok al t =>
    rw [bind_ok, bind_ok]
    cases readLoc al t with
    | raised u => rfl
    | ok av u => exact agree al av u

/-- An instruction that starts with IA = 0 keeps INTQ and FAULT, even if it is IAS: that sets IA last (R224, R263). -/
theorem exec_disabled {i : Instr} {s t : State} (e : exec i s = .next t) (off : s.ia = 0) :
    t.intq = s.intq ∧ t.fault = s.fault := by
  by_cases h : ∃ a, i = .ias a
  · obtain ⟨a, rfl⟩ := h
    -- until its effect, IAS runs as HCF does, whose effect keeps both as well
    obtain ⟨u, halts⟩ := exec_next (.hcf a) s
    have alike : (t.intq, t.fault) = (u.intq, u.fault) := by
      rw [← outcome_eq_next.mp e, ← outcome_eq_next.mp halts]
      exact withSpecial_congr (fun s => (s.intq, s.fault)) a s fun _ _ _ => rfl
    obtain ⟨intq, fault⟩ := Prod.mk.inj alike
    rw [intq, fault]
    exact (exec_inert halts (by simp)).kept off
  · exact (exec_inert e (not_exists.mp h)).kept off

/-- An instruction step with IA = 0 before and after keeps INTQ and FAULT in its fetch, its meaning and its ticks. -/
theorem execStep_disabled {s t : State} (h : execStep s = .next t) (before : s.ia = 0) (after : t.ia = 0) :
    t.intq = s.intq ∧ t.fault = s.fault := by
  have fetched : Inert s (fetch s.captureShadows).state :=
    bind_state inert_trans (s := s) (memRead_inert s.pc s.captureShadows) fun _ _ _ => rfl
  have ia := (fetch_effect s.captureShadows).ia
  rcases execStep_cases h with f | ⟨w, u, v, f, e, end_⟩ <;> rw [f] at fetched ia
  · exact fetched.kept before
  · obtain ⟨intq, fault⟩ := fetched.kept before
    obtain ⟨ranIntq, ranFault⟩ := exec_disabled e (ia.trans before)
    have ran : v.intq = s.intq ∧ v.fault = s.fault := ⟨ranIntq.trans intq, ranFault.trans fault⟩
    rcases end_ with ⟨-, rfl⟩ | ⟨-, rfl⟩
    · exact ran
    · have off : v.ia = 0 := (tickAll_effect w v.devs (v.addCyc 1)).ia.symm.trans after
      have ticked : Inert v (retire w v).state := tickAll_inert w v.devs (v.addCyc 1)
      obtain ⟨intq, fault⟩ := ticked.kept off
      exact ⟨intq.trans ran.1, fault.trans ran.2⟩

/-- Settles O51: no dispatch is due while IA = 0, and the other two kinds of step keep INTQ and FAULT. -/
theorem disabledInterruptsAreInert : Obligations.DisabledInterruptsAreInert := by
  intro s t before h after
  have ineligible : s.dispatchEligible = false := by simp [State.dispatchEligible, State.deliveryEnabled, before]
  obtain ⟨run, steps⟩ := step_cases h
  have kept : t.intq = s.intq ∧ t.fault = s.fault := by
    rcases steps with ⟨-, rfl⟩ | ⟨-, d, -⟩ | ⟨-, h⟩
    · have skipped : Inert s (skipStep s).state :=
        bind_state inert_trans (s := s) (memRead_inert s.pc s.captureShadows) fun _ _ _ => rfl
      exact skipped.kept before
    · simp [ineligible] at d
    · exact execStep_disabled h before after
  exact ⟨kept.2.trans (stopped_eq_false.mp run).2.1, kept.1, ineligible⟩

end Sys2Proof.Machine
end

section
/-! PROOFS. Reset and the host's actions (70_reset_and_hazards.md R302-R311): the first step after reset, the image load, and
the run commands. -/

namespace Sys2Proof.Machine
open Sys2Proof

/-! ## The first step after reset -/

/-- A halted core with no mark answers that it is halted (log 3). -/
theorem step_halted {s : State} (unfaulted : s.fault = none) (unrefused : s.refused = none) (halted : s.halt = true) :
    step s = .fault .halted := by
  rw [step_eq, nextStep, unfaulted, unrefused, halted]

/-- Settles O56: the word 0x0000 of the empty RAM is a reserved special opcode, whose operand, register A, moves nothing. -/
theorem firstStepAfterReset : Obligations.FirstStepAfterReset := by
  refine ⟨?_, step_halted rfl rfl rfl⟩
  have word : decode (State.reset.rawRead State.reset.pc) = .reservedSpecial00 (.reg .a) := rfl
  rw [step_exec ⟨rfl, rfl, rfl⟩, execStep_unclaimed rfl, word]
  rfl

/-! ## Image load -/

/-- Storing words changes RAM alone. -/
theorem storeWords_frame (ws : List Word) (x : Word) (s : State) :
    storeWords ws x s = { s with ram := (storeWords ws x s).ram } := by
  induction ws generalizing x s with
  | nil => rfl
  | cons w ws ih => exact ih (x + 1) (s.rawWrite x w)

/-- The first word goes to address `k`, the rest from `k + 1` on. -/
theorem storeWords_cons (w : Word) (ws : List Word) (k : Nat) (s : State) :
    storeWords (w :: ws) (BitVec.ofNat 16 k) s =
      storeWords ws (BitVec.ofNat 16 (k + 1)) (s.rawWrite (BitVec.ofNat 16 k) w) := by
  rw [BitVec.ofNat_add]
  rfl

/-- Words stored from address `k` on, short of the end of RAM, leave every word before and after them. -/
theorem rawRead_storeWords_other {ws : List Word} {k : Nat} {x : Word} (s : State) (fits : k + ws.length ≤ 65536)
    (outside : x.toNat < k ∨ k + ws.length ≤ x.toNat) :
    (storeWords ws (BitVec.ofNat 16 k) s).rawRead x = s.rawRead x := by
  induction ws generalizing k s with
  | nil => rfl
  | cons w ws ih =>
    rw [List.length_cons] at fits outside
    have elsewhere : x ≠ BitVec.ofNat 16 k := by
      rintro rfl
      rw [BitVec.toNat_ofNat] at outside
      omega
    rw [storeWords_cons, ih _ (by omega) (by omega), rawRead_rawWrite_other s w elsewhere]

/-- Of words stored from address `k` on, short of the end of RAM, the `n`th is at `k + n`. -/
theorem rawRead_storeWords {ws : List Word} {k n : Nat} {s : State} (canonical : Memory.wf s.ram = true)
    (fits : k + ws.length ≤ 65536) (h : n < ws.length) :
    (storeWords ws (BitVec.ofNat 16 k) s).rawRead (BitVec.ofNat 16 (k + n)) = ws[n] := by
  induction ws generalizing k n s with
  | nil => cases h
  | cons w ws ih =>
    rw [List.length_cons] at fits h
    rw [storeWords_cons]
    cases n with
    | zero =>
      have before : (BitVec.ofNat 16 k).toNat < k + 1 := by rw [BitVec.toNat_ofNat]; omega
      exact (rawRead_storeWords_other _ (by omega) (.inl before)).trans (rawRead_rawWrite_same _ w canonical)
    | succ n =>
      have shifted : k + (n + 1) = k + 1 + n := by omega
      rw [shifted]
      exact ih (wf_write _ w canonical) (by omega) (by omega)

/-- Settles O57: an image that fits is stored from address 0 without a wrap; the length decides which images are. -/
theorem imageLoad : Obligations.ImageLoad := by
  intro image s canonical
  refine ⟨fun fits => ⟨_, if_pos fits, storeWords_frame image 0 s, fun n h => ?_, fun x beyond => ?_⟩,
    fun long => if_neg long.not_ge⟩
  · have placed := rawRead_storeWords (k := 0) canonical (by omega) h
    rw [Nat.zero_add] at placed
    exact placed
  · exact rawRead_storeWords_other (k := 0) s (by omega) (.inr (by omega))

/-! ## The run commands -/

theorem singleStep_of_step {s t : State} (h : step s = .next t) : singleStep s = t := by
  rw [singleStep, h]

/-- A stopped core is left as it is (R311). -/
theorem singleStep_stopped {s : State} (h : s.stopped = true) : singleStep s = s := by
  rcases step_stopped h with ⟨_, e⟩ | ⟨_, e⟩ <;> rw [singleStep, e]

/-- A core that is not stopped takes one step (R311). -/
theorem step_singleStep {s : State} (run : s.stopped = false) : step s = .next (singleStep s) := by
  obtain ⟨t, h⟩ := step_next run
  rw [singleStep_of_step h, h]

/-- Since a single step leaves a stopped core, running `n` steps is `n` single steps, stopped early or not (R311). -/
theorem runSteps_eq_iterate (n : Nat) (s : State) : runSteps n s = singleStep^[n] s := by
  induction n generalizing s with
  | zero => rfl
  | succ n ih =>
    rw [runSteps, Function.iterate_succ_apply, ih]
    split
    next h => rw [singleStep_stopped h, Function.iterate_fixed (singleStep_stopped h)]
    next => rfl

theorem runSteps_stopped {s : State} (h : s.stopped = true) (n : Nat) : runSteps n s = s := by
  rw [runSteps_eq_iterate, Function.iterate_fixed (singleStep_stopped h)]

theorem runSteps_succ (n : Nat) (s : State) : runSteps (n + 1) s = runSteps n (singleStep s) := by
  rw [runSteps_eq_iterate, runSteps_eq_iterate, Function.iterate_succ_apply]

theorem runSteps_add (m n : Nat) (s : State) : runSteps (m + n) s = runSteps n (runSteps m s) := by
  rw [runSteps_eq_iterate, runSteps_eq_iterate, runSteps_eq_iterate, Nat.add_comm, Function.iterate_add_apply]

/-- Once stopped after `m` steps, a run is in that state after any more. -/
theorem runSteps_of_le {m n : Nat} {s : State} (stops : (runSteps m s).stopped = true) (h : m ≤ n) :
    runSteps n s = runSteps m s := by
  rw [← Nat.add_sub_cancel' h, runSteps_add, runSteps_stopped stops]

/-- run-until-halt ends in at most one state (R311): of two ends, neither is left for the other. -/
theorem runsUntilHalt_unique {s t u : State} (ht : RunsUntilHalt s t) (hu : RunsUntilHalt s u) : t = u := by
  obtain ⟨stopsT, m, rfl⟩ := ht
  obtain ⟨stopsU, n, rfl⟩ := hu
  rcases Nat.le_total m n with h | h
  · exact (runSteps_of_le stopsT h).symm
  · exact runSteps_of_le stopsU h

/-- The next step executes SET PC, PC, on a machine with no device (R307). -/
def SpinsOnSetPc (s : State) : Prop := s.Executes ∧ s.NoDevices ∧ s.rawRead s.pc = 0x7381

/-- SET PC, PC writes back its own address: the step captures the shadows and counts a cycle, nothing else (R307). -/
theorem SpinsOnSetPc.singleStep_eq {s : State} (h : SpinsOnSetPc s) : singleStep s = s.captureShadows.addCyc 1 := by
  obtain ⟨x, n, word⟩ := h
  obtain ⟨v, e, runs⟩ := execStep_noDevices n
  have instr : decode (s.rawRead s.pc) = .set .pc .pc := by rw [word]; rfl
  have back : v = s.captureShadows := by
    rw [instr, exec_set_unclaimed (s := s.captureShadows.setPc (s.pc + 1)) n.1] at e
    exact (Host.Outcome.next.inj e).symm
  have unmarked : v.marked = false := back ▸ marked_eq_false.mpr (stopped_eq_false.mp x.1).2
  apply singleStep_of_step
  rw [step_exec x, runs, unmarked, back]
  rfl

/-- SET PC, PC is executed again, step after step (R307). -/
theorem SpinsOnSetPc.runSteps {s : State} (h : SpinsOnSetPc s) (n : Nat) : SpinsOnSetPc (runSteps n s) := by
  rw [runSteps_eq_iterate]
  exact Function.Iterate.rec SpinsOnSetPc h (fun _ spins => spins.singleStep_eq ▸ spins) n

/-- Settles O60: run-N-steps is an iteration of single-step, which leaves a stopped core; SET PC, PC is kept by every step. -/
theorem runCommands : Obligations.RunCommands := by
  refine ⟨fun s => ⟨?_, fun stops => ?_, fun run => ⟨step_singleStep run, fun n => runSteps_succ n s⟩⟩, runSteps_add,
    fun s t u ht => ⟨ht.1, runsUntilHalt_unique ht⟩, fun s x devices word t => ?_⟩
  · simp [State.stopped, or_assoc]
  · exact ⟨singleStep_stopped stops, runSteps_stopped stops, stops, 0, rfl⟩
  · rintro ⟨stops, n, rfl⟩
    have spins : SpinsOnSetPc s := ⟨x, devices, word⟩
    exact absurd stops (by simp [(spins.runSteps n).1.1])

end Sys2Proof.Machine
end
